-- ==== Sys2Proof/Word.lean ====
section
/-! DEFINITION. Sys2Proof/Word.lean: the word types of emissary-b64 (30_encoding.md R64, R65; 00_scope.md R12, R13). -/
namespace Sys2Proof

/-- One octet: a byte, a character or a table entry (00_scope.md R13). -/
abbrev Byte := BitVec 8

/-- A 6-bit index of the alphabet, one of the four fields of a group (00_scope.md section 6). -/
abbrev Index := BitVec 6

/-- A 24-bit group value (30_encoding.md R73, R75). -/
abbrev Group := BitVec 24

/-- A command word `IW[11:0]` (30_encoding.md R64). -/
abbrev CmdWord := BitVec 12

/-- A response word `RW[11:0]` (30_encoding.md R65). -/
abbrev RspWord := BitVec 12

/-- The counters INCNT, OUTCNT and the position ERRPOS, `CNT_W = 64` bits (00_scope.md R12). -/
abbrev Counter := BitVec 64

end Sys2Proof
end

