-- ==== Sys2Proof/Config.lean ====
section
/-! DEFINITION. Sys2Proof/Config.lean: what is fixed for one piece of hardware and what the spec leaves open
(00_scope.md section 4; 92_eei_decisions.md, open parameters). -/
namespace Sys2Proof

/-- The two parameters that stay arguments of the model: `ALPHABET` (00_scope.md R7) and `CHUNK_GROUPS`, written K
(00_scope.md R9). Every other parameter of 00_scope.md section 4 is fixed and is a constant of the machine's files. -/
structure Config where
  /-- `ALPHABET[0..63]`, the symbol of each index. -/
  alphabet : Vector Byte 64
  /-- K, the number of groups per output chunk, 1..65535. -/
  chunkGroups : BitVec 16
  deriving DecidableEq, Repr

/-- What the sink does with a burst: the two answers of 20_memory.md R53, or none for ever (43_control.md R110, U11). -/
inductive SinkReply where
  | ok
  | fail
  | silent
  deriving DecidableEq, Repr, Inhabited

/-- FREE VALUE (log 6). K is OPEN: the hardware's K is this number plus one, so it lies in 1..65535 and nothing else
is known of it. -/
opaque Config.freeChunkGroups : Fin 65535

/-- FREE VALUE (log 4). The sink's reply to the n-th burst presented to it, where the environment's list in State
does not settle it: 20_memory.md R53 lets no rule constrain it. -/
opaque Config.freeSinkReply : Nat → SinkReply

end Sys2Proof
end

