-- ==== Sys2Proof/Machine/Alphabet.lean ====
section
/-! DEFINITION. Sys2Proof/Machine/Alphabet.lean: the constants of base64_alphabet_lut: the I2P alphabet (00_scope.md R7,
10_state.md R17), the padding symbol (R8, R19) and what any alphabet must satisfy (R20). -/
namespace Sys2Proof.Machine

/-- `PAD_SYM`, the padding symbol `=` (10_state.md R19). PRESUMED: its ASCII code (log 8). -/
def padSym : Byte := 0x3D#8

/-- `ALPHABET` of this hardware (00_scope.md R7, the table of 10_state.md R17): upper case, lower case, digits, then `-`
and `~`. PRESUMED: the order of the classes, the last two symbols and the ASCII codes (log 7, log 8). -/
def i2pAlphabet : Vector Byte 64 := #v[
  0x41, 0x42, 0x43, 0x44, 0x45, 0x46, 0x47, 0x48,
  0x49, 0x4A, 0x4B, 0x4C, 0x4D, 0x4E, 0x4F, 0x50,
  0x51, 0x52, 0x53, 0x54, 0x55, 0x56, 0x57, 0x58,
  0x59, 0x5A, 0x61, 0x62, 0x63, 0x64, 0x65, 0x66,
  0x67, 0x68, 0x69, 0x6A, 0x6B, 0x6C, 0x6D, 0x6E,
  0x6F, 0x70, 0x71, 0x72, 0x73, 0x74, 0x75, 0x76,
  0x77, 0x78, 0x79, 0x7A, 0x30, 0x31, 0x32, 0x33,
  0x34, 0x35, 0x36, 0x37, 0x38, 0x39, 0x2D, 0x7E]

/-- What the spec requires of the parameters: ALPHABET injective and without PAD (10_state.md R20 (a), (b)) and
`1 ≤ K ≤ 65535` (00_scope.md R9; the upper bound is the field's width). R20 (c) follows, and printability (d) need not
be checked of another alphabet (93, U15). -/
abbrev ValidConfig (c : Config) : Prop :=
  c.alphabet.toList.Nodup ∧ padSym ∉ c.alphabet.toList ∧ c.chunkGroups ≠ 0#16

end Sys2Proof.Machine
end

