-- ==== Sys2Proof/Machine/Operands.lean ====
section
/-! DEFINITION. Sys2Proof/Machine/Operands.lean: the lookup tables (10_state.md R17, R18; 40_alphabet_lut.md) and the
group layouts (30_encoding.md R73 to R76), from which every command takes its operands. -/
namespace Sys2Proof.Machine

/-! ### The lookup tables -/

/-- `ENC_LUT[i] = ALPHABET[i]` (10_state.md R17, 20_memory.md R42). -/
def encLut (c : Config) (i : Index) : Byte := c.alphabet.get i.toFin

/-- `DEC_LUT[x]` (10_state.md R18, 20_memory.md R43): the index, zero extended, of the entry of ENC_LUT that equals `x`;
0x80, the NIA bit alone, if there is none. -/
def decLut (c : Config) (x : Byte) : Byte :=
  match c.alphabet.toList.findIdx? (fun y => y == x) with
  | some i => BitVec.ofNat 8 i
  | none => 0x80#8

/-- The NIA bit of a DEC_LUT entry, bit 7 (30_encoding.md R77). -/
def nia (entry : Byte) : Bool := entry.getLsbD 7

/-- The `idx` field of a DEC_LUT entry, bits 5:0 (30_encoding.md R77). -/
def entryIndex (entry : Byte) : Index := entry.extractLsb' 0 6

/-- `symbolOf(i)` (40_alphabet_lut.md R81). -/
def symbolOf (c : Config) (i : Index) : Byte := encLut c i

/-- `indexOf(x)` (40_alphabet_lut.md R82); `none` is the document's `NotInAlphabet`. -/
def indexOf (c : Config) (x : Byte) : Option Index :=
  if nia (decLut c x) then none else some (entryIndex (decLut c x))

/-- `isPad(x)`, the comparator beside the table (40_alphabet_lut.md R83). -/
def isPad (x : Byte) : Bool := x == padSym

/-- The classes of an input character (40_alphabet_lut.md R84). -/
inductive CharClass where
  | sym (i : Index)
  | padc
  | bad
  deriving DecidableEq, Repr

/-- `classOf(x)` (40_alphabet_lut.md R84); no character is ignorable (00_scope.md R10). -/
def classOf (c : Config) (x : Byte) : CharClass :=
  match indexOf c x with
  | some i => .sym i
  | none => if isPad x then .padc else .bad

/-! ### Slices of the accumulator -/

/-- The four fields of a group value, most significant first (30_encoding.md R73). -/
def field0 (g : Group) : Index := g.extractLsb' 18 6
@[inherit_doc field0] def field1 (g : Group) : Index := g.extractLsb' 12 6
@[inherit_doc field0] def field2 (g : Group) : Index := g.extractLsb' 6 6
@[inherit_doc field0] def field3 (g : Group) : Index := g.extractLsb' 0 6

/-- The three bytes of a group value, most significant first (30_encoding.md R75). -/
def byte0 (g : Group) : Byte := g.extractLsb' 16 8
@[inherit_doc byte0] def byte1 (g : Group) : Byte := g.extractLsb' 8 8
@[inherit_doc byte0] def byte2 (g : Group) : Byte := g.extractLsb' 0 8

/-- `ACC[23-8*CNT : 16-8*CNT] <- b` (41_encode.md R90). With CNT = 3, which encode never reaches (10_state.md R38 (d)),
the slice lies outside ACC and nothing is written (DESIGN CHOICE, log 13). -/
def placeByte (cnt : BitVec 2) (b : Byte) (acc : Group) : Group :=
  match cnt.toNat with
  | 0 => b ++ acc.extractLsb' 0 16
  | 1 => acc.extractLsb' 16 8 ++ b ++ acc.extractLsb' 0 8
  | 2 => acc.extractLsb' 8 16 ++ b
  | _ => acc

/-- `ACC[23-6*CNT : 18-6*CNT] <- i` (42_decode.md R98). -/
def placeIndex (cnt : BitVec 2) (i : Index) (acc : Group) : Group :=
  match cnt.toNat with
  | 0 => i ++ acc.extractLsb' 0 18
  | 1 => acc.extractLsb' 18 6 ++ i ++ acc.extractLsb' 0 12
  | 2 => acc.extractLsb' 12 12 ++ i ++ acc.extractLsb' 0 6
  | _ => acc.extractLsb' 6 18 ++ i

/-! ### What a group puts out -/

/-- The four characters of a full group in encode (30_encoding.md R73, 41_encode.md R90). -/
def encGroup (c : Config) (acc : Group) : List Byte :=
  [encLut c (field0 acc), encLut c (field1 acc), encLut c (field2 acc), encLut c (field3 acc)]

/-- The characters of the final partial group in encode (30_encoding.md R74, 41_encode.md R91). -/
def encTail (c : Config) (cnt : BitVec 2) (acc : Group) : List Byte :=
  if cnt = 1#2 then [encLut c (field0 acc), encLut c (field1 acc), padSym, padSym]
  else if cnt = 2#2 then [encLut c (field0 acc), encLut c (field1 acc), encLut c (field2 acc), padSym]
  else []

/-- The bytes of a completed group in decode, by its number of padding characters (30_encoding.md R75, R76,
42_decode.md R98). R98 appends nothing for any other PADS, which never occurs (10_state.md R27; log 13). -/
def decGroup (pads : BitVec 2) (acc : Group) : List Byte :=
  if pads = 0#2 then [byte0 acc, byte1 acc, byte2 acc]
  else if pads = 1#2 then [byte0 acc, byte1 acc]
  else if pads = 2#2 then [byte0 acc]
  else []

end Sys2Proof.Machine
end

