-- ==== Sys2Proof/Syntax.lean ====
section
/-! DEFINITION. Sys2Proof/Syntax.lean: the eight commands of 30_encoding.md R67, one constructor per row of
spec/opcode_table.json. -/
namespace Sys2Proof

/-- A command. PUT, SYM and IDX carry their `arg` field whole, as 30_encoding.md R66 gives it; the `arg` of the other
five is reserved and zero, so they carry nothing. -/
inductive Instr where
  /-- ENC: open an encode stream (R89). -/
  | enc
  /-- DEC: open a decode stream (R97). -/
  | dec
  /-- PUT: supply one item (R71, R90, R98). -/
  | put (item : Byte)
  /-- END: the source is exhausted (R72, R91, R99). -/
  | end_
  /-- ABT: the source has failed or been abandoned (R105). -/
  | abt
  /-- CLR: acknowledge the end of a stream (R106). -/
  | clr
  /-- SYM: look up the symbol of an index (R85); `arg[7:6]` must be 0, which WellFormed checks. -/
  | sym (arg : Byte)
  /-- IDX: look up the index of a character (R86). -/
  | idx (char : Byte)
  deriving DecidableEq, Repr

end Sys2Proof
end

