-- ==== Sys2Proof/WellFormed.lean ====
section
/-! DEFINITION. Sys2Proof/WellFormed.lean: which commands have a word of their own (30_encoding.md R66). -/
namespace Sys2Proof

/-- The one check on operands (30_encoding.md R66): a SYM argument lies in "index: 0..63", that is `arg[7:6] = 0`. All
256 values of a PUT or IDX argument are legal, and the other commands have no operand. -/
def Instr.wellFormed : Instr → Bool
  | .sym arg => arg.extractLsb' 6 2 == 0#2
  | .enc | .dec | .put _ | .end_ | .abt | .clr | .idx _ => true

/-- `Instr.wellFormed` as a proposition. -/
abbrev WellFormed (i : Instr) : Prop := i.wellFormed = true

end Sys2Proof
end

