-- ==== Sys2Proof/Decode.lean ====
section
/-! DEFINITION. Sys2Proof/Decode.lean: from a 12-bit command word to a command or a named reserved word, and back
(30_encoding.md R64 to R70). -/
namespace Sys2Proof

/-- The three families of reserved words of 30_encoding.md R68. -/
inductive Reserved where
  /-- `op` 0x0, 0x7, 0xA to 0xF, with any `arg`. -/
  | opcode
  /-- `op` 0x1, 0x2, 0x4, 0x5, 0x6 with `arg != 0`. -/
  | argument
  /-- `op` 0x8 with `arg[7:6] != 0`. -/
  | index
  deriving DecidableEq, Repr

/-- What a word decodes to. -/
inductive Decoded where
  | command (i : Instr)
  | reserved (r : Reserved)
  deriving DecidableEq, Repr

/-- `IW[11:8]` (R64). -/
def opField (w : CmdWord) : BitVec 4 := w.extractLsb' 8 4

/-- `IW[7:0]` (R64). -/
def argField (w : CmdWord) : Byte := w.extractLsb' 0 8

/-- A command whose `arg` is reserved and must be 0x00 (R66). -/
def withoutArg (i : Instr) (arg : Byte) : Decoded :=
  if arg = 0#8 then .command i else .reserved .argument

/-- Decoding (R67, R68): total, and independent of every register (R70). -/
def decode (w : CmdWord) : Decoded :=
  match (opField w).toNat with
  | 0x1 => withoutArg .enc (argField w)
  | 0x2 => withoutArg .dec (argField w)
  | 0x3 => .command (.put (argField w))
  | 0x4 => withoutArg .end_ (argField w)
  | 0x5 => withoutArg .abt (argField w)
  | 0x6 => withoutArg .clr (argField w)
  | 0x8 => if (argField w).extractLsb' 6 2 = 0#2 then .command (.sym (argField w)) else .reserved .index
  | 0x9 => .command (.idx (argField w))
  | _ => .reserved .opcode

/-- The operation code of R67's first column. -/
def opcode : Instr → BitVec 4
  | .enc => 0x1#4
  | .dec => 0x2#4
  | .put _ => 0x3#4
  | .end_ => 0x4#4
  | .abt => 0x5#4
  | .clr => 0x6#4
  | .sym _ => 0x8#4
  | .idx _ => 0x9#4

/-- The `arg` field of the assembled word (R66, R79): the operand, or 0x00 where there is none. -/
def argument : Instr → Byte
  | .put item => item
  | .sym arg => arg
  | .idx char => char
  | .enc | .dec | .end_ | .abt | .clr => 0#8

/-- The encoder: "the assembled word is `op ‖ arg`" (R79). -/
def encode (i : Instr) : CmdWord := opcode i ++ argument i

/-- The columns `match` and `mask` of R67, each row's own. -/
def tableRow : Instr → CmdWord × CmdWord
  | .enc => (0x100#12, 0xFFF#12)
  | .dec => (0x200#12, 0xFFF#12)
  | .put _ => (0x300#12, 0xF00#12)
  | .end_ => (0x400#12, 0xFFF#12)
  | .abt => (0x500#12, 0xFFF#12)
  | .clr => (0x600#12, 0xFFF#12)
  | .sym _ => (0x800#12, 0xFC0#12)
  | .idx _ => (0x900#12, 0xF00#12)

/-- The eight rows of R67, in its order. -/
def tableRows : List (CmdWord × CmdWord) :=
  [tableRow .enc, tableRow .dec, tableRow (.put 0#8), tableRow .end_, tableRow .abt, tableRow .clr, tableRow (.sym 0#8),
    tableRow (.idx 0#8)]

/-- "A word selects the row whose `(IW & mask) == match`" (R67). -/
def selectsRow (w : CmdWord) (row : CmdWord × CmdWord) : Bool := w &&& row.2 == row.1

/-- The word of a table row, its bits numbered as spec/opcode_table.json numbers them: a command is one word of 12 bits
(R69), so a number with a bit above bit 11 is the word of no command (log 18). -/
def decodeTableWord (_nbits w : Nat) : Option Instr :=
  if w < 4096 then
    match decode (BitVec.ofNat 12 w) with
    | .command i => some i
    | .reserved _ => none
  else none

end Sys2Proof
end

