-- ==== Sys2Proof/Machine/State.lean ====
section
/-! DEFINITION. Sys2Proof/Machine/State.lean: the state of one engine and its ports (10_state.md), the reset state (R39)
and the ways a step can stop. -/
namespace Sys2Proof.Machine

/-- STATE, the control state (10_state.md R22). -/
inductive Ctl where
  | idle
  | run
  | done
  | fault
  deriving DecidableEq, Repr

/-- DIR, the direction of the open or last stream (10_state.md R23). -/
inductive Dir where
  | encode
  | decode
  deriving DecidableEq, Repr

/-- The four error kinds (60_exceptions.md R111). -/
inductive ErrKind where
  | invalidSymbol
  | invalidLength
  | invalidPadding
  | ioError
  deriving DecidableEq, Repr

/-- The engine registers (10_state.md section 3). `err = none` is ERR = 0 (R24). -/
structure Engine where
  state : Ctl
  dir : Dir
  err : Option ErrKind
  acc : Group
  cnt : BitVec 2
  pads : BitVec 2
  fin : Bool
  obuf : List Byte
  incnt : Counter
  outcnt : Counter
  errpos : Counter
  deriving DecidableEq, Repr

/-- The reset value of every engine register (10_state.md R39). -/
def Engine.reset : Engine where
  state := .idle
  dir := .encode
  err := none
  acc := 0#24
  cnt := 0#2
  pads := 0#2
  fin := false
  obuf := []
  incnt := 0#64
  outcnt := 0#64
  errpos := 0#64

/-- What the host can do to the block between two steps: present a command word (70_reset_and_hazards.md R135) or pull
the reset input (R130). -/
inductive HostEvent where
  | command (w : CmdWord)
  | reset
  deriving DecidableEq, Repr

/-- The machine: the constant configuration, the engine registers, the histories of the sink and response ports, and the
environment's inputs as plain data (log 1, log 4). -/
structure State where
  /-- ALPHABET and K, constant for the life of the hardware (10_state.md R21, R34). -/
  cfg : Config
  /-- The engine registers. -/
  eng : Engine
  /-- The bursts the sink has answered `Ok`, oldest first (10_state.md R16, 20_memory.md R45; log 10). -/
  sink : List (List Byte)
  /-- The response words given, oldest first (30_encoding.md R65; log 11). -/
  responses : List RspWord
  /-- The host's events still to come, next first (log 1). -/
  input : List HostEvent
  /-- The sink's replies that the environment has settled, next first (log 4). -/
  sinkReplies : List SinkReply
  /-- The number of bursts presented so far: the index of the next free reply (log 4). -/
  sinkAsked : Nat
  deriving DecidableEq, Repr

/-- How a step can stop. -/
inductive Fault where
  /-- The sink never answers the burst it was given, so the command never completes and "no rule of this spec gives the
  machine a step in that case" (43_control.md R110, 70_reset_and_hazards.md R141, U11). Raised by PUT and END where they
  perform a burst. Safe (log 5). -/
  | sinkSilent
  deriving DecidableEq, Repr

/-- Why an instruction has no meaning. No instruction of this model uses it: a refusal of the spec is a next state with
the response F00 (log 12). -/
inductive Refusal where
  /-- The instruction of this mnemonic has no meaning yet; raised by an arm of exec only. Safe. -/
  | notModelled (mnemonic : String)
  deriving DecidableEq, Repr

/-- The configuration of this hardware: the alphabet of 00_scope.md R7 and a K of which only `1 ≤ K ≤ 65535` is known
(R9, log 6). -/
def hardwareConfig : Config where
  alphabet := i2pAlphabet
  chunkGroups := BitVec.ofNat 16 (Config.freeChunkGroups.val + 1)

/-- The machine right after reset (10_state.md R39), with empty port histories and nothing presented by the host or
settled by the sink (log 3, log 4, log 10, log 11). -/
def State.reset : State where
  cfg := hardwareConfig
  eng := Engine.reset
  sink := []
  responses := []
  input := []
  sinkReplies := []
  sinkAsked := 0

end Sys2Proof.Machine
end

