-- ==== Sys2Proof/Machine/Flags.lean ====
section
/-! DEFINITION. Sys2Proof/Machine/Flags.lean: the numeric codes of the control registers (10_state.md R22 to R24,
30_encoding.md R78) and the status port SR0 to SR4 (10_state.md R33 to R35). -/
namespace Sys2Proof.Machine

/-- The number of a control state (10_state.md R22). -/
def Ctl.code : Ctl → BitVec 2
  | .idle => 0#2
  | .run => 1#2
  | .done => 2#2
  | .fault => 3#2

/-- The number of a direction (10_state.md R23). -/
def Dir.code : Dir → BitVec 1
  | .encode => 0#1
  | .decode => 1#1

/-- `code(Kind)` (10_state.md R24, 60_exceptions.md R111). -/
def ErrKind.code : ErrKind → BitVec 4
  | .invalidSymbol => 1#4
  | .invalidLength => 2#4
  | .invalidPadding => 3#4
  | .ioError => 4#4

/-- The value of ERR, 0 for none (10_state.md R24). -/
def errCode : Option ErrKind → BitVec 4
  | none => 0#4
  | some k => k.code

/-- The result of a command (30_encoding.md R78). -/
inductive RspCode where
  | ok
  | error (k : ErrKind)
  | refused
  deriving DecidableEq, Repr

/-- The number of a result code (30_encoding.md R78). -/
def RspCode.code : RspCode → BitVec 4
  | .ok => 0x0#4
  | .error k => k.code
  | .refused => 0xF#4

/-- The response word `code ‖ data` (30_encoding.md R65). -/
def rspWord (code : RspCode) (data : Byte) : RspWord := code.code ++ data

/-! ### The status port: read at any time, without effect (10_state.md section 4; log 16) -/

/-- SR0 STATUS: ERR in 7:4, FIN in 3, DIR in 2, STATE in 1:0 (10_state.md R33). -/
def sr0 (s : State) : BitVec 8 := errCode s.eng.err ++ BitVec.ofBool s.eng.fin ++ s.eng.dir.code ++ s.eng.state.code

/-- CFG.IGN_WS, hardwired 0 (10_state.md R34, 00_scope.md R10). -/
def ignWs : BitVec 1 := 0#1

/-- CFG.UNPADDED, hardwired 0 (10_state.md R34, 00_scope.md R11). -/
def acceptUnpadded : BitVec 1 := 0#1

/-- SR1 CFG: reserved 31:18, UNPADDED 17, IGN_WS 16, K in 15:0 (10_state.md R34). -/
def sr1 (s : State) : BitVec 32 := 0#14 ++ acceptUnpadded ++ ignWs ++ s.cfg.chunkGroups

/-- SR2 INCNT (10_state.md R35). -/
def sr2 (s : State) : Counter := s.eng.incnt

/-- SR3 OUTCNT (10_state.md R35). -/
def sr3 (s : State) : Counter := s.eng.outcnt

/-- SR4 ERRPOS (10_state.md R35). -/
def sr4 (s : State) : Counter := s.eng.errpos

end Sys2Proof.Machine
end

