-- ==== Sys2Proof/Machine/Ops.lean ====
section
/-! DEFINITION. Sys2Proof/Machine/Ops.lean: the operations every command is made of: the response, refusal, fault entry
and return (60_exceptions.md R119, R121), the sink write and the chunk rule (20_memory.md R53, R54), reset (R130). -/
namespace Sys2Proof.Machine

/-- What a command answers. -/
abbrev Result := Host.Outcome State Fault Refusal

/-- Replace the engine registers. -/
def State.setEng (s : State) (e : Engine) : State := { s with eng := e }

/-- `respond(code, data)`: end the command with one response word (00_scope.md section 5, 30_encoding.md R65). -/
def respond (code : RspCode) (data : Byte) (s : State) : State :=
  { s with responses := s.responses ++ [rspWord code data] }

/-- `refuse`: respond REFUSED and change nothing (43_control.md R108). -/
def refuse (s : State) : State := respond .refused 0#8 s

/-- The engine registers after fault entry (60_exceptions.md R119): DIR, INCNT and OUTCNT are kept. -/
def Engine.faulted (k : ErrKind) (e : Engine) : Engine :=
  { e with
    errpos := e.incnt
    err := some k
    state := .fault
    acc := 0#24
    cnt := 0#2
    pads := 0#2
    fin := false
    obuf := [] }

/-- `raise <Kind>`: fault entry, the one way an error is taken (60_exceptions.md R119). INCNT is the value before the
command, since every command increments it last. -/
def raise (k : ErrKind) (s : State) : State := respond (.error k) 0#8 (s.setEng (s.eng.faulted k))

/-- Every engine register to its reset value: the effect of CLR, which is the return from a fault (43_control.md R106,
60_exceptions.md R121), and of reset (70_reset_and_hazards.md R130, R131). -/
def clearEngine (s : State) : State := s.setEng Engine.reset

/-- `OCAP`, the capacity of OBUF: 4K characters in encode, 3K bytes in decode (00_scope.md R9). -/
def ocap (c : Config) : Dir → Nat
  | .encode => 4 * c.chunkGroups.toNat
  | .decode => 3 * c.chunkGroups.toNat

/-! ### The sink port -/

/-- The sink's reply to the burst presented now: the next one the environment has settled, else a free one (log 4). -/
def State.sinkReply (s : State) : SinkReply :=
  match s.sinkReplies with
  | r :: _ => r
  | [] => Config.freeSinkReply s.sinkAsked

/-- The environment after the sink has replied to a burst (log 4). -/
def State.sinkReplied (s : State) : State :=
  { s with sinkReplies := s.sinkReplies.tail, sinkAsked := s.sinkAsked + 1 }

/-- What became of a burst, or of a command's flush: all accepted, answered `Fail`, or never answered. -/
inductive Flushed where
  | done (s : State)
  | failed (s : State)
  | silent
  deriving DecidableEq, Repr

/-- `SinkWrite(burst)` (20_memory.md R53): on `Ok` the burst joins the sink stream; no engine register changes. -/
def sinkWrite (burst : List Byte) (s : State) : Flushed :=
  match s.sinkReply with
  | .ok => .done { s.sinkReplied with sink := s.sink ++ [burst] }
  | .fail => .failed s.sinkReplied
  | .silent => .silent

/-- The engine registers after an accepted burst (20_memory.md R54): OUTCNT counts it and OBUF is empty. -/
def Engine.drained (e : Engine) : Engine :=
  { e with outcnt := e.outcnt + BitVec.ofNat 64 e.obuf.length, obuf := [] }

/-- The condition under which `Flush(force)` performs a burst (20_memory.md R54). -/
def flushDue (force : Bool) (s : State) : Bool :=
  decide (0 < s.eng.obuf.length) && (force || decide (ocap s.cfg s.eng.dir ≤ s.eng.obuf.length))

/-- `Flush(force)` (20_memory.md R54), up to the `raise IOError` that `Flushed.finish` performs. -/
def flush (force : Bool) (s : State) : Flushed :=
  if flushDue force s then
    match sinkWrite s.eng.obuf s with
    | .done t => .done (t.setEng t.eng.drained)
    | .failed t => .failed t
    | .silent => .silent
  else .done s

/-- The end of a command that flushes: go on, or `raise IOError` (20_memory.md R54), or never complete (R110). -/
def Flushed.finish (f : Flushed) (k : State → State) : Result :=
  match f with
  | .done t => .next (k t)
  | .failed t => .next (raise .ioError t)
  | .silent => .fault .sinkSilent

/-- The end of an accepted PUT: `INCNT <- INCNT + 1` and response OK (41_encode.md R90, 42_decode.md R98). -/
def accepted (s : State) : State :=
  respond .ok 0#8 (s.setEng { s.eng with incnt := s.eng.incnt + 1#64 })

/-! ### The command port -/

/-- A reserved word is refused in every state (43_control.md R107); whichever family it is of makes no difference. -/
def executeReserved (_ : Reserved) (s : State) : State := refuse s

/-- A host event put at the front of those to come. -/
def State.present (s : State) (ev : HostEvent) : State := { s with input := ev :: s.input }

/-- The reset input (70_reset_and_hazards.md R130): engine registers only, no response, no burst. -/
def pullReset (s : State) : State := clearEngine s

end Sys2Proof.Machine
end

