-- ==== Sys2Proof/Machine/DecodeStream.lean ====
section
/-! DEFINITION. Sys2Proof/Machine/DecodeStream.lean: DEC, and PUT and END in the decode direction (42_decode.md R97 to
R99). -/
namespace Sys2Proof.Machine

/-- DEC (R97): open a decode stream, in IDLE only. -/
def execDec (s : State) : Result :=
  if s.eng.state = .idle then
    .next (respond .ok 0#8 (s.setEng { s.eng with state := .run, dir := .decode }))
  else .next (refuse s)

/-- The four checks of R98 in their order: the error the character raises, if any (60_exceptions.md R118). -/
def checkChar (cfg : Config) (e : Engine) (c : Byte) : Option ErrKind :=
  if nia (decLut cfg c) && !isPad c then some .invalidSymbol
  else if e.fin then some .invalidPadding
  else if isPad c then
    if e.cnt < 2#2 then some .invalidPadding else none
  else
    if 0#2 < e.pads then some .invalidPadding else none

/-- ACC and PADS with an accepted character taken in (R98): a padding character counts and its position stays zero, a
symbol's index goes to its position. -/
def takeChar (cfg : Config) (c : Byte) (e : Engine) : Engine :=
  if isPad c then { e with pads := e.pads + 1#2 }
  else { e with acc := placeIndex e.cnt (entryIndex (decLut cfg c)) e.acc }

/-- The fourth character of a group taken (R98): the group's bytes go to OBUF, FIN is set by a padded group, and the
next group begins. -/
def closeGroup (e : Engine) : Engine :=
  { e with
    obuf := e.obuf ++ decGroup e.pads e.acc
    fin := e.fin || decide (0#2 < e.pads)
    acc := 0#24
    cnt := 0#2
    pads := 0#2 }

/-- PUT c in RUN with DIR = 1 (R98). -/
def putDecode (c : Byte) (s : State) : Result :=
  match checkChar s.cfg s.eng c with
  | some k => .next (raise k s)
  | none =>
    let e := takeChar s.cfg c s.eng
    if s.eng.cnt < 3#2 then .next (accepted (s.setEng { e with cnt := s.eng.cnt + 1#2 }))
    else (flush false (s.setEng (closeGroup e))).finish accepted

/-- END in RUN with DIR = 1 (R99). -/
def endDecode (s : State) : Result :=
  if s.eng.cnt ≠ 0#2 then .next (raise .invalidLength s)
  else
    (flush true s).finish fun t => respond .ok 0#8 (t.setEng { t.eng with fin := false, state := .done })

end Sys2Proof.Machine
end

