-- ==== Sys2Proof/Machine/EncodeStream.lean ====
section
/-! DEFINITION. Sys2Proof/Machine/EncodeStream.lean: ENC, and PUT and END in the encode direction (41_encode.md R89 to
R91). -/
namespace Sys2Proof.Machine

/-- ENC (R89): open an encode stream, in IDLE only. -/
def execEnc (s : State) : Result :=
  if s.eng.state = .idle then
    .next (respond .ok 0#8 (s.setEng { s.eng with state := .run, dir := .encode }))
  else .next (refuse s)

/-- PUT b in RUN with DIR = 0 (R90). -/
def putEncode (b : Byte) (s : State) : Result :=
  let acc := placeByte s.eng.cnt b s.eng.acc
  if s.eng.cnt < 2#2 then
    .next (accepted (s.setEng { s.eng with acc := acc, cnt := s.eng.cnt + 1#2 }))
  else
    (flush false (s.setEng { s.eng with
      obuf := s.eng.obuf ++ encGroup s.cfg acc, acc := 0#24, cnt := 0#2 })).finish accepted

/-- END in RUN with DIR = 0 (R91). -/
def endEncode (s : State) : Result :=
  (flush true (s.setEng { s.eng with obuf := s.eng.obuf ++ encTail s.cfg s.eng.cnt s.eng.acc })).finish fun t =>
    respond .ok 0#8 (t.setEng { t.eng with acc := 0#24, cnt := 0#2, state := .done })

end Sys2Proof.Machine
end

