-- ==== Sys2Proof/Machine/Control.lean ====
section
/-! DEFINITION. Sys2Proof/Machine/Control.lean: the dispatch of PUT and END on the direction (30_encoding.md R71, R72)
and the stream control commands ABT and CLR (43_control.md R105, R106). -/
namespace Sys2Proof.Machine

/-- PUT (R71): in RUN, by DIR; refused in any other STATE. -/
def execPut (item : Byte) (s : State) : Result :=
  if s.eng.state = .run then
    match s.eng.dir with
    | .encode => putEncode item s
    | .decode => putDecode item s
  else .next (refuse s)

/-- END (R72): in RUN, by DIR; refused in any other STATE. -/
def execEnd (s : State) : Result :=
  if s.eng.state = .run then
    match s.eng.dir with
    | .encode => endEncode s
    | .decode => endDecode s
  else .next (refuse s)

/-- ABT (R105): the source has failed; in RUN only. -/
def execAbt (s : State) : Result :=
  if s.eng.state = .run then .next (raise .ioError s) else .next (refuse s)

/-- CLR (R106): every engine register to its reset value; refused in RUN. -/
def execClr (s : State) : Result :=
  if s.eng.state = .run then .next (refuse s) else .next (respond .ok 0#8 (clearEngine s))

end Sys2Proof.Machine
end

