-- ==== Sys2Proof/Machine/Lookup.lean ====
section
/-! DEFINITION. Sys2Proof/Machine/Lookup.lean: the lookup commands SYM and IDX (40_alphabet_lut.md R85, R86). -/
namespace Sys2Proof.Machine

/-- SYM i (R85): legal in every STATE, writes no register. -/
def execSym (arg : Byte) (s : State) : Result :=
  if arg.extractLsb' 6 2 ≠ 0#2 then .next (refuse s)
  else .next (respond .ok (encLut s.cfg (arg.extractLsb' 0 6)) s)

/-- IDX c (R86): legal in every STATE, writes no register; a non-member is reported in the response only. -/
def execIdx (char : Byte) (s : State) : Result :=
  if nia (decLut s.cfg char) then .next (respond (.error .invalidSymbol) 0x80#8 s)
  else .next (respond .ok (decLut s.cfg char) s)

end Sys2Proof.Machine
end

