-- ==== Sys2Proof/Machine/Dispatch.lean ====
section
/-! DEFINITION. Sys2Proof/Machine/Dispatch.lean: one arm per command (30_encoding.md R67). -/
namespace Sys2Proof.Machine

def exec (i : Instr) (s : State) : Host.Outcome State Fault Refusal :=
  match i with
  | .enc => Sys2Proof.Machine.execEnc s
  | .dec => Sys2Proof.Machine.execDec s
  | .put item => Sys2Proof.Machine.execPut item s
  | .end_ => Sys2Proof.Machine.execEnd s
  | .abt => Sys2Proof.Machine.execAbt s
  | .clr => Sys2Proof.Machine.execClr s
  | .sym arg => Sys2Proof.Machine.execSym arg s
  | .idx char => Sys2Proof.Machine.execIdx char s

end Sys2Proof.Machine
end

