-- ==== Sys2Proof/Machine/Step.lean ====
section
/-! DEFINITION. Sys2Proof/Machine/Step.lean: one step of the machine: the host's next event, taken whole (00_scope.md R6,
10_state.md R15, 43_control.md R110). -/
namespace Sys2Proof.Machine

/-- One step. With no event to come the block is quiescent and keeps all its state (60_exceptions.md R129; log 2). -/
def step (s : State) : Host.Outcome State Fault Refusal :=
  match s.input with
  | [] => .next s
  | .reset :: rest => .next (pullReset { s with input := rest })
  | .command w :: rest =>
    match decode w with
    | .command i => exec i { s with input := rest }
    | .reserved r => .next (executeReserved r { s with input := rest })

/-- The word `w` presented on the command port as the next one, bits 11:0 of it (30_encoding.md R64, R69; log 3,
log 18). -/
def State.withFetchWord (s : State) (_nbits w : Nat) : State := s.present (.command (BitVec.ofNat 12 w))

end Sys2Proof.Machine
end

