-- ==== Sys2Proof/Machine/Script.lean ====
section
/-! DEFINITION. Sys2Proof/Machine/Script.lean: command scripts: the pseudo-instructions of 30_encoding.md R80 as lists of
commands, and the written syntax of R79 as a reader of lines (log 19). -/
namespace Sys2Proof.Machine

/-! ### Scripts as lists of commands -/

/-- `PUTS` and `PUTB`: one PUT per octet, in order (R80). -/
def puts (items : List Byte) : List Instr := items.map .put

/-- `ENCODE h0 ... hn`: `ENC`, the PUTs, `END` (R80). -/
def encodeScript (bytes : List Byte) : List Instr := .enc :: (puts bytes ++ [.end_])

/-- `DECODE "text"`: `DEC`, the PUTs, `END` (R80). -/
def decodeScript (text : List Byte) : List Instr := .dec :: (puts text ++ [.end_])

/-- The words of a script, presented one at a time in order. -/
def commands (script : List Instr) : List HostEvent := script.map fun i => .command (encode i)

/-! ### The written syntax (R79) -/

/-- White space within a line. -/
def isBlank (c : Char) : Bool := c == ' ' || c == '\t'

/-- The line from its next character that is no white space. -/
def skipBlanks (l : List Char) : List Char := l.dropWhile isBlank

/-- Nothing is left of a line but white space and a comment. -/
def atLineEnd (l : List Char) : Bool :=
  match skipBlanks l with
  | [] => true
  | c :: _ => c == '#'

/-- An operand ends where white space, a comment or the line's end follows. -/
def atOperandEnd (l : List Char) : Bool :=
  match l with
  | [] => true
  | c :: _ => isBlank c || c == '#'

/-- The value of a hexadecimal digit. -/
def hexDigit (c : Char) : Option Nat :=
  if '0' ≤ c ∧ c ≤ '9' then some (c.toNat - 48)
  else if 'A' ≤ c ∧ c ≤ 'F' then some (c.toNat - 55)
  else if 'a' ≤ c ∧ c ≤ 'f' then some (c.toNat - 87)
  else none

/-- Exactly `n` hexadecimal digits, most significant first, on top of the value read so far. -/
def readHex : Nat → Nat → List Char → Option (Nat × List Char)
  | 0, v, l => some (v, l)
  | n + 1, v, c :: l => (hexDigit c).bind fun d => readHex n (16 * v + d) l
  | _ + 1, _, [] => none

/-- One or more decimal digits. -/
def readDecimal (l : List Char) : Option (Nat × List Char) :=
  let digits := l.takeWhile Char.isDigit
  if digits = [] then none
  else some (digits.foldl (fun v c => 10 * v + (c.toNat - 48)) 0, l.drop digits.length)

/-- A printable character, as R79 asks of a quoted operand (PRESUMED 0x20..0x7E, log 19). -/
def isPrintable (c : Char) : Bool := decide (0x20 ≤ c.toNat) && decide (c.toNat ≤ 0x7E)

/-- An 8-bit operand: `0xHH`, decimal, or a quoted printable character (R79). -/
def readOctet (l : List Char) : Option (Byte × List Char) :=
  let value :=
    match skipBlanks l with
    | '\'' :: c :: '\'' :: rest => if isPrintable c then some (c.toNat, rest) else none
    | '0' :: 'x' :: rest => readHex 2 0 rest
    | rest => readDecimal rest
  value.bind fun (v, rest) => if v < 256 ∧ atOperandEnd rest then some (BitVec.ofNat 8 v, rest) else none

/-- The listed bytes of PUTB and ENCODE, up to the line's end; `fuel` bounds their number. -/
def readOctets : Nat → List Char → Option (List Byte)
  | 0, l => if atLineEnd l then some [] else none
  | fuel + 1, l =>
    if atLineEnd l then some []
    else (readOctet l).bind fun (v, rest) => (readOctets fuel rest).map (v :: ·)

/-- A character of a text: one octet (00_scope.md R13). -/
def isOctet (c : Char) : Bool := decide (c.toNat ≤ 0xFF)

/-- The text of PUTS and DECODE, between double quotes, then the line's end (R80). DESIGN CHOICE (log 19): R80 does not say
which characters may stand in a text, and here any of code 0x00 to 0xFF may but the double quote, which ends it; the
character's octet is its code. -/
def readText (l : List Char) : Option (List Byte) :=
  match skipBlanks l with
  | '"' :: rest =>
    let text := rest.takeWhile (· != '"')
    match rest.drop text.length with
    | '"' :: after =>
      if text.all isOctet ∧ atLineEnd after then some (text.map fun c => BitVec.ofNat 8 c.toNat) else none
    | _ => none
  | _ => none

/-- The words of commands. -/
def assembled (script : List Instr) : List CmdWord := script.map encode

/-- A command without operand (R79). -/
def plainLine (i : Instr) (rest : List Char) : Option (List CmdWord) :=
  if atLineEnd rest then some (assembled [i]) else none

/-- A command with one operand for which `ok` holds (R79). -/
def operandLine (mk : Byte → Instr) (ok : Byte → Bool) (rest : List Char) : Option (List CmdWord) :=
  (readOctet rest).bind fun (v, after) => if ok v ∧ atLineEnd after then some (assembled [mk v]) else none

/-- `WORD 0xNNN` (R79), any 12-bit word, a command's too (DESIGN CHOICE, log 19). -/
def wordLine (rest : List Char) : Option (List CmdWord) :=
  match skipBlanks rest with
  | '0' :: 'x' :: digits =>
    (readHex 3 0 digits).bind fun (v, after) => if atLineEnd after then some [BitVec.ofNat 12 v] else none
  | _ => none

/-- The words of one line of a script (R79, R80); `none` for a line that is not of the syntax. DESIGN CHOICE (log 19):
R79 says of SYM's operand only that it is "a value 0..63", and it may stand here in each written form of PUT's operand. -/
def assembleLine (line : List Char) : Option (List CmdWord) :=
  let l := skipBlanks line
  let name := l.takeWhile Char.isUpper
  let rest := l.drop name.length
  if name = [] then (if atLineEnd l then some [] else none)
  else if !atOperandEnd rest then none
  else if name = ['E', 'N', 'C'] then plainLine .enc rest
  else if name = ['D', 'E', 'C'] then plainLine .dec rest
  else if name = ['E', 'N', 'D'] then plainLine .end_ rest
  else if name = ['A', 'B', 'T'] then plainLine .abt rest
  else if name = ['C', 'L', 'R'] then plainLine .clr rest
  else if name = ['P', 'U', 'T'] then operandLine .put (fun _ => true) rest
  else if name = ['I', 'D', 'X'] then operandLine .idx (fun _ => true) rest
  else if name = ['S', 'Y', 'M'] then operandLine .sym (fun v => v.toNat < 64) rest
  else if name = ['W', 'O', 'R', 'D'] then wordLine rest
  else if name = ['P', 'U', 'T', 'S'] then (readText rest).map fun t => assembled (puts t)
  else if name = ['P', 'U', 'T', 'B'] then (readOctets rest.length rest).map fun b => assembled (puts b)
  else if name = ['E', 'N', 'C', 'O', 'D', 'E'] then
    (readOctets rest.length rest).map fun b => assembled (encodeScript b)
  else if name = ['D', 'E', 'C', 'O', 'D', 'E'] then (readText rest).map fun t => assembled (decodeScript t)
  else none

/-- The words of a script, "one command per line, executed top to bottom" (R79). -/
def assemble (lines : List (List Char)) : Option (List CmdWord) :=
  (lines.mapM assembleLine).map List.flatten

end Sys2Proof.Machine
end

