-- ==== Sys2Proof/Machine/Transform.lean ====
section
/-! DEFINITION. Sys2Proof/Machine/Transform.lean: the functions the engine computes, enc (41_encode.md R88) and dec
(42_decode.md R96), written from their own rules and not from the commands. -/
namespace Sys2Proof.Machine

/-- `enc(b)` (41_encode.md R88). -/
def enc (c : Config) : List Byte → List Byte
  | [] => []
  | [b0] => [symbolOf c (b0.extractLsb' 2 6), symbolOf c (b0.extractLsb' 0 2 ++ 0#4), padSym, padSym]
  | [b0, b1] =>
    [symbolOf c (b0.extractLsb' 2 6), symbolOf c (b0.extractLsb' 0 2 ++ b1.extractLsb' 4 4),
      symbolOf c (b1.extractLsb' 0 4 ++ 0#2), padSym]
  | b0 :: b1 :: b2 :: rest =>
    symbolOf c (b0.extractLsb' 2 6) :: symbolOf c (b0.extractLsb' 0 2 ++ b1.extractLsb' 4 4) ::
      symbolOf c (b1.extractLsb' 0 4 ++ b2.extractLsb' 6 2) :: symbolOf c (b2.extractLsb' 0 6) :: enc c rest

/-- The outcome of `dec(t)`: `Ok(bytes)` or `Err(kind, pos)` (42_decode.md R96). -/
inductive DecResult where
  | ok (bytes : List Byte)
  | err (kind : ErrKind) (pos : Nat)
  deriving DecidableEq, Repr

/-- The character at position `p` of the text is PAD. -/
def padAt (t : List Byte) (p : Nat) : Bool := t[p]? == some padSym

/-- `bad(p)` for the character `ch = t[p]` (42_decode.md R96 step 1, its five cases in order, with `q = p mod 4`). -/
def badAt (c : Config) (t : List Byte) (p : Nat) (ch : Byte) : Option ErrKind :=
  if classOf c ch = .bad then some .invalidSymbol
  else if 4 ≤ p ∧ padAt t (p - p % 4 - 1) then some .invalidPadding
  else if classOf c ch = .padc ∧ p % 4 < 2 then some .invalidPadding
  else if classOf c ch ≠ .padc ∧ p % 4 = 3 ∧ padAt t (p - 1) then some .invalidPadding
  else none

/-- The least bad position at or after `p` in the rest of the text, with its error (42_decode.md R96 step 1). -/
def firstBad (c : Config) (t : List Byte) : Nat → List Byte → Option (ErrKind × Nat)
  | _, [] => none
  | p, ch :: rest =>
    match badAt c t p ch with
    | some k => some (k, p)
    | none => firstBad c t (p + 1) rest

/-- The index of a symbol. Only applied to symbols, where `indexOf` has a value (42_decode.md R96 step 3). -/
def indexOrZero (c : Config) (x : Byte) : Index := (indexOf c x).getD 0#6

/-- The bytes of one group of four characters (42_decode.md R96 step 3). -/
def decChars (c : Config) (c0 c1 c2 c3 : Byte) : List Byte :=
  let i0 := indexOrZero c c0
  let i1 := indexOrZero c c1
  let i2 := indexOrZero c c2
  let i3 := indexOrZero c c3
  if isPad c2 then [i0 ++ i1.extractLsb' 4 2]
  else if isPad c3 then [i0 ++ i1.extractLsb' 4 2, i1.extractLsb' 0 4 ++ i2.extractLsb' 2 4]
  else [i0 ++ i1.extractLsb' 4 2, i1.extractLsb' 0 4 ++ i2.extractLsb' 2 4, i2.extractLsb' 0 2 ++ i3]

/-- The concatenation over the groups of four characters (42_decode.md R96 step 3). -/
def decValue (c : Config) : List Byte → List Byte
  | c0 :: c1 :: c2 :: c3 :: rest => decChars c c0 c1 c2 c3 ++ decValue c rest
  | _ => []

/-- `dec(t)` (42_decode.md R96): character checks, then the length, then the value. -/
def dec (c : Config) (t : List Byte) : DecResult :=
  match firstBad c t 0 t with
  | some (kind, pos) => .err kind pos
  | none => if t.length % 4 ≠ 0 then .err .invalidLength t.length else .ok (decValue c t)

end Sys2Proof.Machine
end

