-- ==== Sys2Proof/Safety.lean ====
section
/-! DEFINITION. Sys2Proof/Safety.lean: what holds of every state the machine can reach (10_state.md R32, R37, R38, R40),
in the terms the statements use. -/
namespace Sys2Proof.Machine

/-- The number of symbols or bytes of the current group that ACC holds: padding characters count in CNT but fill nothing
(10_state.md R25, R27). -/
def Engine.filled (e : Engine) : Nat := e.cnt.toNat - e.pads.toNat

/-- The number of low bits of ACC that the current group has not filled (10_state.md R25, R38 (g)). -/
def Engine.unfilledBits (e : Engine) : Nat :=
  match e.dir with
  | .encode => 24 - 8 * e.filled
  | .decode => 24 - 6 * e.filled

/-- The state invariants of 10_state.md R38, (a) to (h) in its order, the last clause of R32, and one more, which the chunk
rule needs in decode as (d) gives it in encode. -/
structure Engine.Inv (c : Config) (e : Engine) : Prop where
  /-- (a) -/
  idle : e.state = .idle → e = Engine.reset
  /-- (b) -/
  err : e.err ≠ none ↔ e.state = .fault
  /-- (c) -/
  ended : e.state = .done ∨ e.state = .fault →
    e.acc = 0#24 ∧ e.cnt = 0#2 ∧ e.pads = 0#2 ∧ e.fin = false ∧ e.obuf = []
  /-- (d) -/
  encode : e.dir = .encode → e.cnt ≤ 2#2 ∧ e.pads = 0#2 ∧ e.fin = false ∧ e.obuf.length % 4 = 0
  /-- (e) -/
  decode : e.dir = .decode → e.pads ≤ 1#2 ∧ (e.pads = 1#2 → e.cnt = 3#2)
  /-- (f) -/
  obuf : e.obuf.length < ocap c e.dir
  /-- (g) -/
  acc : ∀ j, j < e.unfilledBits → e.acc.getLsbD j = false
  /-- (h) -/
  fin : e.fin = true → e.cnt = 0#2 ∧ e.state = .run
  /-- ERRPOS is "0 otherwise" (R32). -/
  errpos : e.state ≠ .fault → e.errpos = 0#64
  /-- Until a padded group completes, OBUF holds the bytes of whole unpadded groups (20_memory.md R49, R55). -/
  groups : e.dir = .decode → e.fin = false → e.obuf.length % 3 = 0

/-- The invariant of the machine: its parameters are valid (00_scope.md R9, 10_state.md R20) and R38 holds. -/
structure State.Inv (s : State) : Prop where
  cfg : ValidConfig s.cfg
  eng : s.eng.Inv s.cfg

/-- The number of bytes a padded group lacks: 0 while no padded group has completed, else 1 or 2. -/
def Engine.shortfall (e : Engine) (p : Nat) : Prop := if e.fin then p = 1 ∨ p = 2 else p = 0

/-- What the counters say of an open stream (10_state.md R37, R40): the position in the group, and the items held in
OBUF or accepted by the sink, OUTCNT being kept modulo 2^64. It is about a stream of fewer than 2^64 items. -/
structure Engine.Account (e : Engine) : Prop where
  encode : e.state = .run → e.dir = .encode →
    e.cnt.toNat = e.incnt.toNat % 3 ∧
      e.outcnt + BitVec.ofNat 64 e.obuf.length = BitVec.ofNat 64 (4 * (e.incnt.toNat / 3))
  decode : e.state = .run → e.dir = .decode →
    e.cnt.toNat = e.incnt.toNat % 4 ∧
      ∃ p, e.shortfall p ∧ p ≤ 3 * (e.incnt.toNat / 4) ∧
        e.outcnt + BitVec.ofNat 64 e.obuf.length = BitVec.ofNat 64 (3 * (e.incnt.toNat / 4) - p)

/-! ### Terms of the statements -/

/-- One response word given and nothing else changed. -/
def State.answer (s : State) (rsp : RspWord) : State := { s with responses := s.responses ++ [rsp] }

/-- The table of 43_control.md R108: where a command is executed. -/
def legalIn : Instr → Ctl → Bool
  | .enc, .idle | .dec, .idle => true
  | .enc, _ | .dec, _ => false
  | .put _, .run | .end_, .run | .abt, .run => true
  | .put _, _ | .end_, _ | .abt, _ => false
  | .clr, .run => false
  | .clr, _ => true
  | .sym _, _ | .idx _, _ => true

/-- How a command ends that reaches `Flush` with the registers `e` and has `rest` left to do (20_memory.md R54): `due`
says whether a burst is performed. Without one it completes; with one it completes or raises IOError, as the sink
answers. -/
def EndsWithFlush (r : Result) (s : State) (due : Prop) (e : Engine) (rest : Engine → Engine) : Prop :=
  (¬due → r = .next ({ s with eng := rest e }.answer 0x000#12)) ∧
  (due → s.sinkReply = .ok →
    r = .next ({ s.sinkReplied with
      sink := s.sink ++ [e.obuf]
      eng := rest { e with outcnt := e.outcnt + BitVec.ofNat 64 e.obuf.length, obuf := [] } }.answer 0x000#12)) ∧
  (due → s.sinkReply = .fail → r = .next (raise .ioError s.sinkReplied))

/-- The end of an accepted PUT (41_encode.md R90, 42_decode.md R98). -/
def countItem (e : Engine) : Engine := { e with incnt := e.incnt + 1#64 }

/-- A state the machine can reach from reset, "by any sequence of commands and sink answers" (10_state.md R38): the
environment's inputs are any at the start, and a step leads on. -/
inductive Reachable : State → Prop where
  | start (input : List HostEvent) (replies : List SinkReply) (asked : Nat) :
    Reachable { State.reset with input := input, sinkReplies := replies, sinkAsked := asked }
  | step {s t : State} (hs : Reachable s) (h : step s = .next t) : Reachable t

/-! ### Sessions (41_encode.md R95, 42_decode.md R104) -/

/-- `n` steps, stopping where one stops. -/
def runSteps : Nat → State → Result
  | 0, s => .next s
  | n + 1, s =>
    match step s with
    | .next t => runSteps n t
    | .fault f => .fault f
    | .refused r => .refused r

/-- A command that may stand between the opening command of a session and its END: a PUT, or a lookup. -/
def isBody : Instr → Bool
  | .put _ | .idx _ => true
  | .sym arg => (Instr.sym arg).wellFormed
  | .enc | .dec | .end_ | .abt | .clr => false

/-- The source stream: the items of the PUTs, in order (20_memory.md R44). -/
def items (body : List Instr) : List Byte :=
  body.filterMap fun i =>
    match i with
    | .put item => some item
    | .enc | .dec | .end_ | .abt | .clr | .sym _ | .idx _ => none

/-- The response to a command of a session before any fault: OK, or the lookup's own answer. -/
def cleanResponse (c : Config) : Instr → RspWord
  | .sym arg => 0x0#4 ++ encLut c (arg.extractLsb' 0 6)
  | .idx char => if nia (decLut c char) then 0x180#12 else 0x0#4 ++ decLut c char
  | .enc | .dec | .put _ | .end_ | .abt | .clr => 0x000#12

/-- The response to a command of a session after a fault: PUT and END are refused, lookups answer as ever. -/
def faultedResponse (c : Config) : Instr → RspWord
  | .sym arg => cleanResponse c (.sym arg)
  | .idx char => cleanResponse c (.idx char)
  | .enc | .dec | .put _ | .end_ | .abt | .clr => 0xF00#12

/-- `out` cut into bursts of `n` items, the last possibly shorter and none empty. -/
def CutInto (n : Nat) (out : List Byte) (bursts : List (List Byte)) : Prop :=
  bursts.flatten = out ∧ (∀ x ∈ bursts, 0 < x.length ∧ x.length ≤ n) ∧ ∀ x ∈ bursts.dropLast, x.length = n

/-- The items put out so far, in order: those the sink has accepted, then those OBUF still holds (20_memory.md R45,
10_state.md R29, R40). -/
def State.output (s : State) : List Byte := s.sink.flatten ++ s.eng.obuf

/-- The command `i`, from `s` to `t`, empties OBUF without a burst: it enters FAULT (60_exceptions.md R119) or is a CLR
that is executed (43_control.md R106). -/
def discardsOutput (i : Instr) (s t : State) : Prop :=
  s.eng.state = .run ∧ t.eng.state = .fault ∨ s.eng.state ≠ .run ∧ i = .clr

/-- The engine registers without OBUF and OUTCNT, the two that depend on K. -/
def Engine.apartFromChunks (e : Engine) : Engine := { e with obuf := [], outcnt := 0#64 }

/-- Execute a list of commands in order. -/
def execAll : List Instr → State → Result
  | [], s => .next s
  | i :: rest, s =>
    match exec i s with
    | .next t => execAll rest t
    | .fault f => .fault f
    | .refused r => .refused r

end Sys2Proof.Machine
end

