-- ==== Sys2Proof/Certificates/Slice0/Obligations.lean ====
section
/-! DEFINITION. Sys2Proof/Certificates/Slice0/Obligations.lean: the statements for the provers. Each docstring names the
rule of spec/ it formalises. -/

open Sys2Proof Sys2Proof.Machine

/-! ### Encoding -/

/-- 30_encoding.md R67, R79: the decoder gives every well-formed command back from its assembled word. -/
def Obligations.DecodeOfEncodeIsTheCommand : Prop :=
  ∀ i : Instr, WellFormed i → decode (encode i) = .command i

/-- 30_encoding.md R67, R69: a word that decodes to a command is that command's word, and the command is well formed. -/
def Obligations.EncodeOfDecodeIsTheWord : Prop :=
  ∀ (w : CmdWord) (i : Instr), decode w = .command i → encode i = w ∧ WellFormed i

/-- 30_encoding.md R70: every word selects exactly one row and decodes to that row's command, or selects none and is
reserved. -/
def Obligations.EveryWordSelectsOneRowOrIsReserved : Prop :=
  ∀ w : CmdWord,
    (∃ i, decode w = .command i ∧ tableRows.filter (selectsRow w) = [tableRow i]) ∨
    ((∃ r, decode w = .reserved r) ∧ tableRows.filter (selectsRow w) = [])

/-- 30_encoding.md R68: which words are reserved, by family, with no other reserved word. -/
def Obligations.ReservedWordsAreTheThreeFamilies : Prop :=
  ∀ w : CmdWord,
    (decode w = .reserved .opcode ↔ opField w ∈ [0x0#4, 0x7#4, 0xA#4, 0xB#4, 0xC#4, 0xD#4, 0xE#4, 0xF#4]) ∧
    (decode w = .reserved .argument ↔ opField w ∈ [0x1#4, 0x2#4, 0x4#4, 0x5#4, 0x6#4] ∧ argField w ≠ 0#8) ∧
    (decode w = .reserved .index ↔ opField w = 0x8#4 ∧ (argField w).extractLsb' 6 2 ≠ 0#2)

/-- 30_encoding.md R67, R68: a few words, written out from the table. -/
def Obligations.SampleWordsDecode : Prop :=
  decode 0b000100000000#12 = .command .enc ∧ decode 0b001000000000#12 = .command .dec ∧
  decode 0b001101101000#12 = .command (.put 0x68#8) ∧ decode 0b010000000000#12 = .command .end_ ∧
  decode 0b010100000000#12 = .command .abt ∧ decode 0b011000000000#12 = .command .clr ∧
  decode 0b100000111110#12 = .command (.sym 62#8) ∧ decode 0b100100101011#12 = .command (.idx 0x2B#8) ∧
  decode 0x000#12 = .reserved .opcode ∧ decode 0xFFF#12 = .reserved .opcode ∧
  decode 0x101#12 = .reserved .argument ∧ decode 0x840#12 = .reserved .index

/-! ### The step -/

/-- 43_control.md R110, 30_encoding.md R70: when the word presented is that of a well-formed command, a step is the
execution of that command, with the event taken from the host's list (log 1). -/
def Obligations.StepRunsTheDecodedCommand : Prop :=
  ∀ (s : State) (rest : List HostEvent) (i : Instr), WellFormed i → s.input = .command (encode i) :: rest →
    step s = exec i { s with input := rest }

/-- 43_control.md R107: a reserved word is refused in every STATE: response F00, nothing else. -/
def Obligations.ReservedWordIsRefused : Prop :=
  ∀ (s : State) (rest : List HostEvent) (w : CmdWord), s.input = .command w :: rest →
    (∀ row ∈ tableRows, selectsRow w row = false) →
    step s = .next ({ s with input := rest }.answer 0xF00#12)

/-- 70_reset_and_hazards.md R130: reset, in any state, gives every engine register its reset value, gives no response,
performs no burst and does not touch the sink stream. -/
def Obligations.ResetClearsTheEngineOnly : Prop :=
  ∀ (s : State) (rest : List HostEvent), s.input = .reset :: rest →
    ∃ t, step s = .next t ∧
      t.eng.state = .idle ∧ t.eng.dir = .encode ∧ t.eng.err = none ∧ t.eng.acc = 0#24 ∧ t.eng.cnt = 0#2 ∧
      t.eng.pads = 0#2 ∧ t.eng.fin = false ∧ t.eng.obuf = [] ∧ t.eng.incnt = 0#64 ∧ t.eng.outcnt = 0#64 ∧
      t.eng.errpos = 0#64 ∧ t.responses = s.responses ∧ t.sink = s.sink ∧ t.sinkReplies = s.sinkReplies ∧
      t.sinkAsked = s.sinkAsked ∧ t.cfg = s.cfg ∧ t.input = rest

/-- 30_encoding.md R65, 43_control.md R110: a step takes one event of the host, and gives exactly one response word if it
is a command and none otherwise; with no event the block keeps all its state (60_exceptions.md R129; log 2). -/
def Obligations.EveryCommandHasOneResponse : Prop :=
  ∀ s t : State, step s = .next t →
    t.input = s.input.tail ∧
    match s.input with
    | .command _ :: _ => ∃ rsp, t.responses = s.responses ++ [rsp]
    | .reset :: _ => t.responses = s.responses
    | [] => t = s

/-- 20_memory.md R58, R44 and the script of 30_encoding.md R79, R80: presenting the words of well-formed commands one
after the other executes the commands in order. -/
def Obligations.AScriptExecutesItsCommandsInOrder : Prop :=
  ∀ (s : State) (script : List Instr), (∀ i ∈ script, WellFormed i) →
    runSteps script.length { s with input := commands script } = execAll script { s with input := [] }

/-! ### Reset and the status port -/

/-- 10_state.md R39: the engine registers and CFG after reset. -/
def Obligations.RegistersAfterReset : Prop :=
  State.reset.eng.state = .idle ∧ State.reset.eng.dir = .encode ∧ State.reset.eng.err = none ∧
  State.reset.eng.acc = 0#24 ∧ State.reset.eng.cnt = 0#2 ∧ State.reset.eng.pads = 0#2 ∧
  State.reset.eng.fin = false ∧ State.reset.eng.obuf = [] ∧ State.reset.eng.incnt = 0#64 ∧
  State.reset.eng.outcnt = 0#64 ∧ State.reset.eng.errpos = 0#64 ∧
  sr0 State.reset = 0x00#8 ∧ (sr1 State.reset).extractLsb' 0 16 = State.reset.cfg.chunkGroups ∧
  (sr1 State.reset).extractLsb' 16 16 = 0#16

/-- 10_state.md R33, R34, R35: the status port in every state: the fields of SR0 STATUS and SR1 CFG, and the counters. -/
def Obligations.StatusPortFields : Prop :=
  ∀ s : State,
    (sr0 s).extractLsb' 0 2 = s.eng.state.code ∧ (sr0 s).extractLsb' 2 1 = s.eng.dir.code ∧
    (sr0 s).getLsbD 3 = s.eng.fin ∧ (sr0 s).extractLsb' 4 4 = errCode s.eng.err ∧
    (sr1 s).extractLsb' 0 16 = s.cfg.chunkGroups ∧ (sr1 s).getLsbD 16 = false ∧ (sr1 s).getLsbD 17 = false ∧
    (sr1 s).extractLsb' 18 14 = 0#14 ∧ sr2 s = s.eng.incnt ∧ sr3 s = s.eng.outcnt ∧ sr4 s = s.eng.errpos

/-! ### The lookup tables -/

/-- 10_state.md R18 with the alphabet of R17, 40_alphabet_lut.md R82: every entry of DEC_LUT after reset, by the ranges of
the 64 octets. It rests on the presumed alphabet (log 7, log 8). -/
def Obligations.DecLutContents : Prop :=
  ∀ x : Byte, decLut State.reset.cfg x =
    if 0x41 ≤ x.toNat ∧ x.toNat ≤ 0x5A then x - 0x41#8
    else if 0x61 ≤ x.toNat ∧ x.toNat ≤ 0x7A then x - 0x61#8 + 26#8
    else if 0x30 ≤ x.toNat ∧ x.toNat ≤ 0x39 then x - 0x30#8 + 52#8
    else if x = 0x2D#8 then 62#8
    else if x = 0x7E#8 then 63#8
    else 0x80#8

/-- 10_state.md R20 (c), 40_alphabet_lut.md R87: for every valid alphabet the two tables are each other's inverse, and
IDX of the answer to SYM gives the index back. -/
def Obligations.TheTablesAreInverse : Prop :=
  ∀ c : Config, ValidConfig c →
    (∀ i : Index, indexOf c (symbolOf c i) = some i) ∧
    (∀ (x : Byte) (i : Index), indexOf c x = some i → symbolOf c i = x) ∧
    (∀ x : Byte, (∃ i, classOf c x = .sym i) ↔ ∃ i, x = symbolOf c i) ∧
    ∀ (s : State) (i : Index) (x : Byte), s.cfg = c → exec (.sym (0#2 ++ i)) s = .next (s.answer (0x0#4 ++ x)) →
      exec (.idx x) s = .next (s.answer (0x0#4 ++ (0#2 ++ i)))

/-- 10_state.md R18, 30_encoding.md R77: an entry of DEC_LUT is an index below 64 of the octet in ENC_LUT, or exactly 0x80
for an octet that is no symbol, PAD among them. -/
def Obligations.DecLutEntryFormat : Prop :=
  ∀ (c : Config) (x : Byte), ValidConfig c →
    ((∃ i : Index, decLut c x = 0#2 ++ i ∧ encLut c i = x) ∨ (decLut c x = 0x80#8 ∧ ∀ i, encLut c i ≠ x)) ∧
    decLut c padSym = 0x80#8

/-- 40_alphabet_lut.md R87: in every state with a valid alphabet there are exactly 64 octets for which the command IDX
answers OK, each with the entry of DEC_LUT; for every other it answers 180. -/
def Obligations.IdxAnswersOkForSixtyFourCharacters : Prop :=
  ∀ s : State, ValidConfig s.cfg →
    ∃ members : List Byte, members.Nodup ∧ members.length = 64 ∧
      ∀ x : Byte,
        (x ∈ members ↔ ∃ data : Byte, exec (.idx x) s = .next (s.answer (0x0#4 ++ data))) ∧
        (x ∈ members → exec (.idx x) s = .next (s.answer (0x0#4 ++ decLut s.cfg x))) ∧
        (x ∉ members → exec (.idx x) s = .next (s.answer 0x180#12))

/-! ### The commands -/

/-- 40_alphabet_lut.md R85: SYM in every STATE. -/
def Obligations.SymAnswersTheSymbol : Prop :=
  ∀ (s : State) (arg : Byte),
    (arg.extractLsb' 6 2 = 0#2 →
      exec (.sym arg) s = .next (s.answer (0x0#4 ++ encLut s.cfg (arg.extractLsb' 0 6))) ∧
      (ValidConfig s.cfg → encLut s.cfg (arg.extractLsb' 0 6) ≠ 0x3D#8)) ∧
    (arg.extractLsb' 6 2 ≠ 0#2 → exec (.sym arg) s = .next (s.answer 0xF00#12))

/-- 40_alphabet_lut.md R86: IDX in every STATE. -/
def Obligations.IdxAnswersTheIndex : Prop :=
  ∀ (s : State) (char : Byte),
    ((decLut s.cfg char).getLsbD 7 = true → exec (.idx char) s = .next (s.answer 0x180#12)) ∧
    ((decLut s.cfg char).getLsbD 7 = false → exec (.idx char) s = .next (s.answer (0x0#4 ++ decLut s.cfg char)))

/-- 41_encode.md R89: ENC, with the refusal of its word when `arg != 0`. -/
def Obligations.EncOpensAnEncodeStream : Prop :=
  ∀ s : State,
    (s.eng.state = .idle →
      exec .enc s = .next ({ s with eng := { s.eng with state := .run, dir := .encode } }.answer 0x000#12)) ∧
    (s.eng.state ≠ .idle → exec .enc s = .next (s.answer 0xF00#12)) ∧
    ∀ (arg : Byte) (rest : List HostEvent), arg ≠ 0#8 → s.input = .command (0x1#4 ++ arg) :: rest →
      step s = .next ({ s with input := rest }.answer 0xF00#12)

/-- 42_decode.md R97: DEC, with the refusal of its word when `arg != 0`. -/
def Obligations.DecOpensADecodeStream : Prop :=
  ∀ s : State,
    (s.eng.state = .idle →
      exec .dec s = .next ({ s with eng := { s.eng with state := .run, dir := .decode } }.answer 0x000#12)) ∧
    (s.eng.state ≠ .idle → exec .dec s = .next (s.answer 0xF00#12)) ∧
    ∀ (arg : Byte) (rest : List HostEvent), arg ≠ 0#8 → s.input = .command (0x2#4 ++ arg) :: rest →
      step s = .next ({ s with input := rest }.answer 0xF00#12)

/-- 41_encode.md R90: PUT in the encode direction, at each of the three positions of a group, and outside RUN. -/
def Obligations.PutEncodesAByte : Prop :=
  ∀ (s : State) (b : Byte),
    (s.eng.state ≠ .run → exec (.put b) s = .next (s.answer 0xF00#12)) ∧
    (s.eng.state = .run → s.eng.dir = .encode →
      (s.eng.cnt = 0#2 → exec (.put b) s = .next ({ s with eng := countItem { s.eng with
        acc := b ++ s.eng.acc.extractLsb' 0 16, cnt := 1#2 } }.answer 0x000#12)) ∧
      (s.eng.cnt = 1#2 → exec (.put b) s = .next ({ s with eng := countItem { s.eng with
        acc := s.eng.acc.extractLsb' 16 8 ++ b ++ s.eng.acc.extractLsb' 0 8, cnt := 2#2 } }.answer 0x000#12)) ∧
      (s.eng.cnt = 2#2 → ∀ g : Group, g = s.eng.acc.extractLsb' 8 16 ++ b →
        ∀ e : Engine, e = { s.eng with
          obuf := s.eng.obuf ++ [encLut s.cfg (g.extractLsb' 18 6), encLut s.cfg (g.extractLsb' 12 6),
            encLut s.cfg (g.extractLsb' 6 6), encLut s.cfg (g.extractLsb' 0 6)]
          acc := 0#24
          cnt := 0#2 } →
        EndsWithFlush (exec (.put b) s) s (4 * s.cfg.chunkGroups.toNat ≤ e.obuf.length) e countItem))

/-- 41_encode.md R91: END in the encode direction, with no, one or two bytes of a group taken, outside RUN, and with
`arg != 0`. -/
def Obligations.EndEncodesTheTail : Prop :=
  ∀ s : State,
    (s.eng.state ≠ .run → exec .end_ s = .next (s.answer 0xF00#12)) ∧
    (∀ (arg : Byte) (rest : List HostEvent), arg ≠ 0#8 → s.input = .command (0x4#4 ++ arg) :: rest →
      step s = .next ({ s with input := rest }.answer 0xF00#12)) ∧
    (s.eng.state = .run → s.eng.dir = .encode → ∀ tail : List Byte,
      (s.eng.cnt = 0#2 ∧ tail = [] ∨
        s.eng.cnt = 1#2 ∧ tail = [encLut s.cfg (s.eng.acc.extractLsb' 18 6),
          encLut s.cfg (s.eng.acc.extractLsb' 12 6), 0x3D#8, 0x3D#8] ∨
        s.eng.cnt = 2#2 ∧ tail = [encLut s.cfg (s.eng.acc.extractLsb' 18 6),
          encLut s.cfg (s.eng.acc.extractLsb' 12 6), encLut s.cfg (s.eng.acc.extractLsb' 6 6), 0x3D#8]) →
      EndsWithFlush (exec .end_ s) s (s.eng.obuf ++ tail ≠ []) { s.eng with obuf := s.eng.obuf ++ tail }
        fun e => { e with acc := 0#24, cnt := 0#2, state := .done })

/-- 42_decode.md R98, checks 1 to 4 in their order, 60_exceptions.md R118: the errors of PUT in the decode direction. -/
def Obligations.PutDecodeChecks : Prop :=
  ∀ (s : State) (c : Byte), s.eng.state = .run → s.eng.dir = .decode →
    ((decLut s.cfg c).getLsbD 7 = true → c ≠ 0x3D#8 → exec (.put c) s = .next (raise .invalidSymbol s)) ∧
    ((decLut s.cfg c).getLsbD 7 = false ∨ c = 0x3D#8 →
      (s.eng.fin = true → exec (.put c) s = .next (raise .invalidPadding s)) ∧
      (s.eng.fin = false → c = 0x3D#8 → s.eng.cnt < 2#2 → exec (.put c) s = .next (raise .invalidPadding s)) ∧
      (s.eng.fin = false → c ≠ 0x3D#8 → 0#2 < s.eng.pads → exec (.put c) s = .next (raise .invalidPadding s)))

/-- 42_decode.md R98: PUT of a symbol that passes the checks, at each of the four positions of a group. -/
def Obligations.PutDecodesASymbol : Prop :=
  ∀ (s : State) (c : Byte) (i : Index), s.eng.state = .run → s.eng.dir = .decode → c ≠ 0x3D#8 →
    decLut s.cfg c = 0#2 ++ i → s.eng.fin = false → s.eng.pads = 0#2 →
    (s.eng.cnt = 0#2 → exec (.put c) s = .next ({ s with eng := countItem { s.eng with
      acc := i ++ s.eng.acc.extractLsb' 0 18, cnt := 1#2 } }.answer 0x000#12)) ∧
    (s.eng.cnt = 1#2 → exec (.put c) s = .next ({ s with eng := countItem { s.eng with
      acc := s.eng.acc.extractLsb' 18 6 ++ i ++ s.eng.acc.extractLsb' 0 12, cnt := 2#2 } }.answer 0x000#12)) ∧
    (s.eng.cnt = 2#2 → exec (.put c) s = .next ({ s with eng := countItem { s.eng with
      acc := s.eng.acc.extractLsb' 12 12 ++ i ++ s.eng.acc.extractLsb' 0 6, cnt := 3#2 } }.answer 0x000#12)) ∧
    (s.eng.cnt = 3#2 → ∀ g : Group, g = s.eng.acc.extractLsb' 6 18 ++ i →
      ∀ e : Engine, e = { s.eng with
        obuf := s.eng.obuf ++ [g.extractLsb' 16 8, g.extractLsb' 8 8, g.extractLsb' 0 8]
        acc := 0#24
        cnt := 0#2 } →
      EndsWithFlush (exec (.put c) s) s (3 * s.cfg.chunkGroups.toNat ≤ e.obuf.length) e countItem)

/-- 42_decode.md R98: PUT of the padding symbol where it passes the checks: at position 2, and at position 3 with none or
one before it, which completes a padded group. -/
def Obligations.PutDecodesAPadding : Prop :=
  ∀ s : State, s.eng.state = .run → s.eng.dir = .decode → s.eng.fin = false →
    (s.eng.cnt = 2#2 → s.eng.pads = 0#2 → exec (.put 0x3D#8) s = .next ({ s with eng := countItem { s.eng with
      pads := 1#2, cnt := 3#2 } }.answer 0x000#12)) ∧
    (s.eng.cnt = 3#2 → ∀ (bytes : List Byte) (e : Engine),
      (s.eng.pads = 0#2 ∧ bytes = [s.eng.acc.extractLsb' 16 8, s.eng.acc.extractLsb' 8 8] ∨
        s.eng.pads = 1#2 ∧ bytes = [s.eng.acc.extractLsb' 16 8]) →
      e = { s.eng with
        obuf := s.eng.obuf ++ bytes
        fin := true
        acc := 0#24
        cnt := 0#2
        pads := 0#2 } →
      EndsWithFlush (exec (.put 0x3D#8) s) s (3 * s.cfg.chunkGroups.toNat ≤ e.obuf.length) e countItem)

/-- 42_decode.md R99: END in the decode direction, outside RUN, and with `arg != 0`. -/
def Obligations.EndDecodeChecksTheLength : Prop :=
  ∀ s : State,
    (s.eng.state ≠ .run → exec .end_ s = .next (s.answer 0xF00#12)) ∧
    (∀ (arg : Byte) (rest : List HostEvent), arg ≠ 0#8 → s.input = .command (0x4#4 ++ arg) :: rest →
      step s = .next ({ s with input := rest }.answer 0xF00#12)) ∧
    (s.eng.state = .run → s.eng.dir = .decode →
      (s.eng.cnt ≠ 0#2 → exec .end_ s = .next (raise .invalidLength s)) ∧
      (s.eng.cnt = 0#2 → EndsWithFlush (exec .end_ s) s (s.eng.obuf ≠ []) s.eng
        fun e => { e with fin := false, state := .done }))

/-- 43_control.md R105: ABT, with the registers fault entry writes (60_exceptions.md R119) spelled out. -/
def Obligations.AbtRaisesIoError : Prop :=
  ∀ s : State,
    (s.eng.state = .run → exec .abt s = .next ({ s with eng := { s.eng with
      state := .fault, err := some .ioError, errpos := s.eng.incnt, acc := 0#24, cnt := 0#2, pads := 0#2, fin := false,
      obuf := [] } }.answer 0x400#12)) ∧
    (s.eng.state ≠ .run → exec .abt s = .next (s.answer 0xF00#12)) ∧
    ∀ (arg : Byte) (rest : List HostEvent), arg ≠ 0#8 → s.input = .command (0x5#4 ++ arg) :: rest →
      step s = .next ({ s with input := rest }.answer 0xF00#12)

/-- 43_control.md R106: CLR, with every register it writes spelled out. -/
def Obligations.ClrClearsEveryRegister : Prop :=
  ∀ s : State,
    (s.eng.state ≠ .run → exec .clr s = .next ({ s with eng := {
      state := .idle, dir := .encode, err := none, acc := 0#24, cnt := 0#2, pads := 0#2, fin := false, obuf := [],
      incnt := 0#64, outcnt := 0#64, errpos := 0#64 } }.answer 0x000#12)) ∧
    (s.eng.state = .run → exec .clr s = .next (s.answer 0xF00#12)) ∧
    ∀ (arg : Byte) (rest : List HostEvent), arg ≠ 0#8 → s.input = .command (0x6#4 ++ arg) :: rest →
      step s = .next ({ s with input := rest }.answer 0xF00#12)

/-- 60_exceptions.md R119: fault entry, register by register, and its response. -/
def Obligations.FaultEntryRegisters : Prop :=
  ∀ (k : ErrKind) (s : State),
    (raise k s).eng.errpos = s.eng.incnt ∧ (raise k s).eng.err = some k ∧ (raise k s).eng.state = .fault ∧
    (raise k s).eng.acc = 0#24 ∧ (raise k s).eng.cnt = 0#2 ∧ (raise k s).eng.pads = 0#2 ∧
    (raise k s).eng.fin = false ∧ (raise k s).eng.obuf = [] ∧ (raise k s).eng.dir = s.eng.dir ∧
    (raise k s).eng.incnt = s.eng.incnt ∧ (raise k s).eng.outcnt = s.eng.outcnt ∧ (raise k s).sink = s.sink ∧
    (raise k s).responses = s.responses ++ [k.code ++ 0#8] ∧ (raise k s).cfg = s.cfg ∧ (raise k s).input = s.input

/-- 20_memory.md R54: the chunk rule as a shared operation, with what follows it in a command left open. That a sink
which never answers ends the step in a named fault is the model's (log 5). -/
def Obligations.FlushFollowsTheChunkRule : Prop :=
  ∀ (force : Bool) (s : State) (rest : Engine → Engine) (due : Prop) (r : Result),
    (due ↔ 0 < s.eng.obuf.length ∧ (force = true ∨ ocap s.cfg s.eng.dir ≤ s.eng.obuf.length)) →
    r = (flush force s).finish (fun t => { t with eng := rest t.eng }.answer 0x000#12) →
    EndsWithFlush r s due s.eng rest ∧ (due → s.sinkReply = .silent → r = .fault .sinkSilent)

/-- 43_control.md R108: the table of refusals: a command not legal in STATE is refused and changes nothing, and one that
is legal is executed, its response being another than F00. -/
def Obligations.RefusalTable : Prop :=
  ∀ (i : Instr) (s : State), WellFormed i →
    (legalIn i s.eng.state = false → exec i s = .next (s.answer 0xF00#12)) ∧
    (legalIn i s.eng.state = true → ∀ t, exec i s = .next t → t.responses ≠ s.responses ++ [0xF00#12])

/-! ### Rules of the whole machine -/

/-- 43_control.md R109: STATE changes only as the transition table says. -/
def Obligations.StateChangesOnlyAsListed : Prop :=
  ∀ (s t : State) (i : Instr), exec i s = .next t →
    t.eng.state = s.eng.state ∨
    (s.eng.state = .idle ∧ t.eng.state = .run ∧ t.responses = s.responses ++ [0x000#12] ∧
      (i = .enc ∧ t.eng.dir = .encode ∨ i = .dec ∧ t.eng.dir = .decode)) ∨
    (s.eng.state = .run ∧ t.eng.state = .done ∧ i = .end_ ∧ t.responses = s.responses ++ [0x000#12]) ∨
    (s.eng.state = .run ∧ t.eng.state = .fault ∧
      ∃ k, t.eng.err = some k ∧ t.responses = s.responses ++ [k.code ++ 0#8] ∧
        ((∃ x, i = .put x) ∧ (s.eng.dir = .decode ∧ (k = .invalidSymbol ∨ k = .invalidPadding) ∨
            k = .ioError ∧ s.sinkReply = .fail) ∨
          i = .end_ ∧ (s.eng.dir = .decode ∧ k = .invalidLength ∨ k = .ioError ∧ s.sinkReply = .fail) ∨
          i = .abt ∧ k = .ioError)) ∨
    ((s.eng.state = .done ∨ s.eng.state = .fault) ∧ t.eng.state = .idle ∧ i = .clr)

/-- 60_exceptions.md R119, over all commands: whichever command enters FAULT, the registers are those of fault entry at
the registers before the command, and no burst joins the sink stream. -/
def Obligations.EveryFaultIsFaultEntry : Prop :=
  ∀ (s t : State) (i : Instr), exec i s = .next t → s.eng.state ≠ .fault → t.eng.state = .fault →
    ∃ k, t.eng = { s.eng with
        errpos := s.eng.incnt, err := some k, state := .fault, acc := 0#24, cnt := 0#2, pads := 0#2, fin := false,
        obuf := [] } ∧
      t.responses = s.responses ++ [k.code ++ 0#8] ∧ t.sink = s.sink ∧ t.cfg = s.cfg ∧ t.input = s.input

/-- 60_exceptions.md R121, R122: FAULT is left only by CLR or reset, to the reset registers; every other step in FAULT
changes no engine register and performs no burst. -/
def Obligations.FaultIsLeftOnlyByClrOrReset : Prop :=
  ∀ s t : State, s.eng.state = .fault → step s = .next t →
    t.sink = s.sink ∧ t.sinkAsked = s.sinkAsked ∧
    (t.eng = s.eng ∨
      t.eng = Engine.reset ∧ ∃ rest, s.input = .reset :: rest ∨ s.input = .command 0x600#12 :: rest)

/-- 41_encode.md R94: in an encode stream the only error is IOError, from a `Fail` of the sink or from ABT. -/
def Obligations.EncodeStreamsFailOnlyByIoError : Prop :=
  ∀ (s t : State) (i : Instr), s.eng.state = .run → s.eng.dir = .encode → exec i s = .next t →
    t.eng.state = .fault → t.eng.err = some .ioError ∧ (s.sinkReply = .fail ∨ i = .abt)

/-- 60_exceptions.md R112, R113, R114: exactly when a decode stream raises each of its input errors. -/
def Obligations.WhenADecodeStreamRaisesEachError : Prop :=
  ∀ (s t : State), s.Inv → s.eng.state = .run → s.eng.dir = .decode →
    (∀ c, exec (.put c) s = .next t →
      (t.eng.err = some .invalidSymbol ↔ classOf s.cfg c = .bad) ∧
      (t.eng.err = some .invalidPadding ↔ classOf s.cfg c ≠ .bad ∧
        (s.eng.fin = true ∨ classOf s.cfg c = .padc ∧ s.eng.cnt < 2#2 ∨
          classOf s.cfg c ≠ .padc ∧ s.eng.cnt = 3#2 ∧ s.eng.pads = 1#2)) ∧
      t.eng.err ≠ some .invalidLength) ∧
    (exec .end_ s = .next t → (t.eng.err = some .invalidLength ↔ s.eng.cnt ≠ 0#2))

/-- 10_state.md R30: INCNT counts the PUTs that end with response OK, CLR zeroes it, and nothing else changes it. -/
def Obligations.IncntCountsAcceptedItems : Prop :=
  ∀ (s t : State) (i : Instr), exec i s = .next t →
    ((∃ x, i = .put x) → t.responses = s.responses ++ [0x000#12] → t.eng.incnt = s.eng.incnt + 1#64) ∧
    ((∃ x, i = .put x) → t.responses ≠ s.responses ++ [0x000#12] → t.eng.incnt = s.eng.incnt) ∧
    (i = .clr → s.eng.state ≠ .run → t.eng.incnt = 0#64) ∧
    ((∀ x, i ≠ .put x) → i ≠ .clr → t.eng.incnt = s.eng.incnt)

/-- 10_state.md R31, 20_memory.md R50, R53, R54: a command other than CLR either leaves the sink stream and OUTCNT as they
are, or is a PUT or END that adds one burst of 1 to OCAP items, answered `Ok`, which OUTCNT counts; a PUT's burst is a
full chunk. -/
def Obligations.OutcntCountsAcceptedBursts : Prop :=
  ∀ (s t : State) (i : Instr), s.Inv → exec i s = .next t → i ≠ .clr →
    (t.sink = s.sink ∧ t.eng.outcnt = s.eng.outcnt) ∨
    ∃ burst, t.sink = s.sink ++ [burst] ∧ s.sinkReply = .ok ∧
      t.eng.outcnt = s.eng.outcnt + BitVec.ofNat 64 burst.length ∧ 0 < burst.length ∧
      burst.length ≤ ocap s.cfg s.eng.dir ∧
      (i = .end_ ∧ t.eng.state = .done ∨ (∃ x, i = .put x) ∧ burst.length = ocap s.cfg s.eng.dir)

/-- 20_memory.md R54: each command performs at most one SinkWrite, and only PUT and END perform one. -/
def Obligations.AtMostOneBurstPerCommand : Prop :=
  ∀ (s t : State) (i : Instr), exec i s = .next t →
    (t.sinkAsked = s.sinkAsked ∧ t.sinkReplies = s.sinkReplies ∧ t.sink = s.sink) ∨
    (t.sinkAsked = s.sinkAsked + 1 ∧ t.sinkReplies = s.sinkReplies.tail ∧ (i = .end_ ∨ ∃ x, i = .put x))

/-- 60_exceptions.md R120, 20_memory.md R45: nothing retracts, reorders or overwrites what the sink has accepted: a step
adds at most one burst at its end. -/
def Obligations.TheSinkStreamIsNeverRetracted : Prop :=
  ∀ s t : State, step s = .next t → t.sink = s.sink ∨ ∃ burst, t.sink = s.sink ++ [burst]

/-- 10_state.md R21, R34, 20_memory.md R62: no step changes K or any entry of the two tables. -/
def Obligations.NoStepChangesTheTables : Prop :=
  ∀ s t : State, step s = .next t →
    t.cfg.chunkGroups = s.cfg.chunkGroups ∧ (∀ i, encLut t.cfg i = encLut s.cfg i) ∧
    ∀ x, decLut t.cfg x = decLut s.cfg x

/-- 70_reset_and_hazards.md R141, 43_control.md R110: every command completes if the sink answers; one that does not
complete is a PUT or END with a burst the sink never answers, and each command whose burst the sink never answers does not
complete. That this is a named fault is the model's (log 5). -/
def Obligations.EveryCommandCompletesIfTheSinkAnswers : Prop :=
  ∀ (i : Instr) (s : State),
    (s.sinkReply ≠ .silent → ∃ t, exec i s = .next t) ∧
    (∀ f, exec i s = .fault f → f = .sinkSilent ∧ s.sinkReply = .silent ∧ s.eng.state = .run ∧
      (i = .end_ ∨ ∃ x, i = .put x)) ∧
    (∀ r, exec i s ≠ .refused r) ∧
    ∀ (t : State) (later : List SinkReply), exec i { s with sinkReplies := .ok :: later } = .next t →
      t.sinkAsked = s.sinkAsked + 1 → exec i { s with sinkReplies := .silent :: later } = .fault .sinkSilent

/-- 20_memory.md R59: after END responds OK every output item has been accepted: OBUF is empty and STATE is DONE. -/
def Obligations.EndFlushesEverything : Prop :=
  ∀ s t : State, exec .end_ s = .next t → t.responses = s.responses ++ [0x000#12] →
    t.eng.obuf = [] ∧ t.eng.state = .done ∧ s.eng.state = .run

/-- 41_encode.md R95 ("whatever `K` is") and 95_test_vectors.md section 4.2 for one command, with a sink that answers
`Ok`: take two engines with the same alphabet and the same registers but for OBUF and OUTCNT, and any two K. Afterwards
they agree on the same registers and on the response, and both have put out the same further items, in the sink or still
in OBUF; only a command that enters FAULT or clears discards what OBUF held. How the items are cut into bursts, and with it
OBUF and OUTCNT, does depend on K. -/
def Obligations.ChunkSizeDoesNotInfluenceTheTransform : Prop :=
  ∀ (s₁ s₂ t₁ t₂ : State) (i : Instr),
    s₁.cfg.alphabet = s₂.cfg.alphabet → s₁.eng.apartFromChunks = s₂.eng.apartFromChunks →
    s₁.sinkReply = .ok → s₂.sinkReply = .ok → exec i s₁ = .next t₁ → exec i s₂ = .next t₂ →
    t₁.eng.apartFromChunks = t₂.eng.apartFromChunks ∧ t₁.responses.getLast? = t₂.responses.getLast? ∧
    (¬discardsOutput i s₁ t₁ → ∃ added, t₁.output = s₁.output ++ added ∧ t₂.output = s₂.output ++ added) ∧
    (discardsOutput i s₁ t₁ → t₁.output = s₁.sink.flatten ∧ t₂.output = s₂.sink.flatten)

/-! ### Invariants -/

/-- 10_state.md R38 at reset, with the parameters of this hardware valid (00_scope.md R7, R9, 10_state.md R20 (a), (b)). -/
def Obligations.InvariantHoldsAtReset : Prop := State.reset.Inv

/-- 10_state.md R38, inductively: a step from any state that meets the invariants gives one that meets them. -/
def Obligations.StepKeepsTheInvariant : Prop :=
  ∀ s t : State, s.Inv → step s = .next t → t.Inv

/-- 10_state.md R38: every state reachable from reset, by any commands and sink answers, meets (a) to (h). -/
def Obligations.ReachableStatesMeetTheInvariant : Prop :=
  ∀ s : State, Reachable s → s.Inv

/-- 10_state.md R37, R40: a step keeps what INCNT, OUTCNT, CNT and OBUF say of an open stream, for a stream of fewer than
2^64 items. -/
def Obligations.StepKeepsTheAccount : Prop :=
  ∀ s t : State, s.Inv → s.eng.Account → s.eng.incnt.toNat + 1 < 2 ^ 64 → step s = .next t → t.eng.Account

/-! ### The transform -/

/-- 41_encode.md R92: the length law. -/
def Obligations.EncodedLength : Prop :=
  ∀ (c : Config) (b : List Byte), (enc c b).length = 4 * ((b.length + 2) / 3)

/-- 41_encode.md R93: alphabet closure, and where PAD stands. -/
def Obligations.EncodedTextIsSymbolsThenPadding : Prop :=
  ∀ (c : Config) (b : List Byte), ValidConfig c →
    ∃ body, enc c b = body ++ List.replicate ((3 - b.length % 3) % 3) padSym ∧
      ∀ x ∈ body, (∃ i, x = symbolOf c i) ∧ x ≠ padSym

/-- 42_decode.md R101: the round trip, for every valid alphabet. -/
def Obligations.DecodeOfEncodedBytes : Prop :=
  ∀ (c : Config) (b : List Byte), ValidConfig c → dec c (enc c b) = .ok b

/-- 42_decode.md R102: the decoded length. -/
def Obligations.DecodedLength : Prop :=
  ∀ (c : Config) (t bytes : List Byte), ValidConfig c → dec c t = .ok bytes →
    t.count padSym ≤ 2 ∧ bytes.length + t.count padSym = 3 * (t.length / 4)

/-- 42_decode.md R96 step 3, R103: exactly the well-formed texts decode: a multiple of 4 characters, all symbols but for
one or two PAD at the end. -/
def Obligations.ExactlyWellFormedTextDecodes : Prop :=
  ∀ (c : Config) (t : List Byte), ValidConfig c →
    ((∃ bytes, dec c t = .ok bytes) ↔
      t.length % 4 = 0 ∧ ∃ (body : List Byte) (p : Nat), t = body ++ List.replicate p padSym ∧ p ≤ 2 ∧
        ∀ x ∈ body, ∃ i, classOf c x = .sym i)

/-- 42_decode.md R100: the discarded bits of a padded group are not examined, whatever whole unpadded groups stand
before it: two symbols that agree on the bits used decode alike. -/
def Obligations.DiscardedBitsAreIgnored : Prop :=
  ∀ (c : Config) (before bytes : List Byte) (c0 c1 c1' c2 c2' : Byte) (i0 i1 i1' i2 i2' : Index), ValidConfig c →
    padSym ∉ before → dec c before = .ok bytes →
    indexOf c c0 = some i0 → indexOf c c1 = some i1 → indexOf c c1' = some i1' → indexOf c c2 = some i2 →
    indexOf c c2' = some i2' →
    (i2.extractLsb' 2 4 = i2'.extractLsb' 2 4 →
      dec c (before ++ [c0, c1, c2, padSym]) = dec c (before ++ [c0, c1, c2', padSym]) ∧
      dec c (before ++ [c0, c1, c2, padSym]) =
        .ok (bytes ++ [i0 ++ i1.extractLsb' 4 2, i1.extractLsb' 0 4 ++ i2.extractLsb' 2 4])) ∧
    (i1.extractLsb' 4 2 = i1'.extractLsb' 4 2 →
      dec c (before ++ [c0, c1, padSym, padSym]) = dec c (before ++ [c0, c1', padSym, padSym]) ∧
      dec c (before ++ [c0, c1, padSym, padSym]) = .ok (bytes ++ [i0 ++ i1.extractLsb' 4 2]))

/-- 42_decode.md R103 (a): a text with a character that is neither a symbol nor PAD never decodes, and fails with
InvalidSymbol at the first such character unless an earlier position fails with InvalidPadding. -/
def Obligations.TextWithABadCharacterIsRejected : Prop :=
  ∀ (c : Config) (before after : List Byte) (x : Byte), classOf c x = .bad → (∀ y ∈ before, classOf c y ≠ .bad) →
    dec c (before ++ x :: after) = .err .invalidSymbol before.length ∨
    ∃ p, p < before.length ∧ dec c (before ++ x :: after) = .err .invalidPadding p

/-! ### Sessions -/

/-- 41_encode.md R95, the sink answering every burst `Ok`, with 41_encode.md R92 and 20_memory.md R55: an encode session
from IDLE, with lookups anywhere in it, puts out `enc` of its items, cut into chunks of 4K characters. -/
def Obligations.EncodeSessionPutsOutTheEncoding : Prop :=
  ∀ (s : State) (body : List Instr), s.Inv → s.eng.state = .idle → (∀ i ∈ body, isBody i = true) →
    s.input = commands (.enc :: (body ++ [.end_])) → (∀ r ∈ s.sinkReplies, r = .ok) →
    body.length + 2 ≤ s.sinkReplies.length →
    ∃ (t : State) (bursts : List (List Byte)), runSteps (body.length + 2) s = .next t ∧
      t.eng.state = .done ∧ t.eng.dir = .encode ∧ t.eng.err = none ∧
      t.eng.incnt = BitVec.ofNat 64 (items body).length ∧
      t.eng.outcnt = BitVec.ofNat 64 (4 * (((items body).length + 2) / 3)) ∧
      t.responses = s.responses ++ (.enc :: (body ++ [.end_])).map (cleanResponse s.cfg) ∧
      t.sink = s.sink ++ bursts ∧ CutInto (4 * s.cfg.chunkGroups.toNat) (enc s.cfg (items body)) bursts

/-- 41_encode.md R95, the first `Fail` being the answer to burst number `j + 1`: the sink stream is the first `j` chunks,
the command that performed the burst answers IOError, and the PUTs and the END after it are refused. -/
def Obligations.EncodeSessionWithAFailingSink : Prop :=
  ∀ (s : State) (body : List Instr) (j : Nat) (later : List SinkReply), s.Inv → s.eng.state = .idle →
    (∀ i ∈ body, isBody i = true) → s.input = commands (.enc :: (body ++ [.end_])) →
    s.sinkReplies = List.replicate j .ok ++ .fail :: later →
    j * (4 * s.cfg.chunkGroups.toNat) < (enc s.cfg (items body)).length →
    ∃ (t : State) (bursts : List (List Byte)) (before after : List Instr) (i : Instr),
      runSteps (body.length + 2) s = .next t ∧
      t.eng.state = .fault ∧ t.eng.err = some .ioError ∧
      t.sink = s.sink ++ bursts ∧ bursts.length = j ∧ (∀ x ∈ bursts, x.length = 4 * s.cfg.chunkGroups.toNat) ∧
      bursts.flatten = (enc s.cfg (items body)).take (j * (4 * s.cfg.chunkGroups.toNat)) ∧
      .enc :: (body ++ [.end_]) = before ++ i :: after ∧ (i = .end_ ∨ ∃ x, i = .put x) ∧
      t.responses = s.responses ++ before.map (cleanResponse s.cfg) ++ 0x400#12 :: after.map (faultedResponse s.cfg)

/-- 42_decode.md R104, first case: a decode session of a text that `dec` accepts ends in DONE and puts out the decoded
bytes, cut into chunks of 3K. -/
def Obligations.DecodeSessionOfWellFormedText : Prop :=
  ∀ (s : State) (body : List Instr) (bytes : List Byte), s.Inv → s.eng.state = .idle →
    (∀ i ∈ body, isBody i = true) → s.input = commands (.dec :: (body ++ [.end_])) →
    (∀ r ∈ s.sinkReplies, r = .ok) → body.length + 2 ≤ s.sinkReplies.length → dec s.cfg (items body) = .ok bytes →
    ∃ (t : State) (bursts : List (List Byte)), runSteps (body.length + 2) s = .next t ∧
      t.eng.state = .done ∧ t.eng.dir = .decode ∧ t.eng.err = none ∧
      t.eng.incnt = BitVec.ofNat 64 (items body).length ∧ t.eng.outcnt = BitVec.ofNat 64 bytes.length ∧
      t.responses = s.responses ++ (.dec :: (body ++ [.end_])).map (cleanResponse s.cfg) ∧
      t.sink = s.sink ++ bursts ∧ CutInto (3 * s.cfg.chunkGroups.toNat) bytes bursts

/-- 42_decode.md R104, second and third case: a decode session of a text that `dec` rejects with `kind` at `pos` ends in
FAULT with that kind and position; everything before answers OK, everything after is refused, and the sink holds the
decoding of the whole chunks of complete unpadded groups before `pos`. -/
def Obligations.DecodeSessionOfMalformedText : Prop :=
  ∀ (s : State) (body : List Instr) (kind : ErrKind) (pos : Nat), s.Inv → s.eng.state = .idle →
    (∀ i ∈ body, isBody i = true) → s.input = commands (.dec :: (body ++ [.end_])) →
    (∀ r ∈ s.sinkReplies, r = .ok) → body.length + 2 ≤ s.sinkReplies.length →
    dec s.cfg (items body) = .err kind pos →
    ∀ groups : Nat, groups = pos / 4 - (if 4 ≤ pos ∧ padAt (items body) (pos - pos % 4 - 1) then 1 else 0) →
    ∃ (t : State) (bursts : List (List Byte)) (before after : List Instr) (i : Instr),
      runSteps (body.length + 2) s = .next t ∧
      t.eng.state = .fault ∧ t.eng.dir = .decode ∧ t.eng.err = some kind ∧ t.eng.errpos = BitVec.ofNat 64 pos ∧
      t.eng.incnt = BitVec.ofNat 64 pos ∧
      .dec :: (body ++ [.end_]) = before ++ i :: after ∧ (items before).length = pos ∧
      (i = .end_ ∧ kind = .invalidLength ∨ (∃ x, i = .put x) ∧ (kind = .invalidSymbol ∨ kind = .invalidPadding)) ∧
      t.responses = s.responses ++ before.map (cleanResponse s.cfg) ++
        (kind.code ++ 0#8) :: after.map (faultedResponse s.cfg) ∧
      t.sink = s.sink ++ bursts ∧ (∀ x ∈ bursts, x.length = 3 * s.cfg.chunkGroups.toNat) ∧
      bursts.flatten = decValue s.cfg
        ((items body).take (4 * (s.cfg.chunkGroups.toNat * (groups / s.cfg.chunkGroups.toNat))))

/-- 42_decode.md R101 on the machine (95_test_vectors.md section 7): the sink stream of a clean encode session, fed to a
decode session of an engine with the same alphabet and any K, gives the bytes back. -/
def Obligations.EncodeThenDecodeGivesTheBytesBack : Prop :=
  ∀ (s₁ s₂ t₁ : State) (bytes text : List Byte), s₁.Inv → s₂.Inv → s₁.eng.state = .idle → s₂.eng.state = .idle →
    s₁.cfg.alphabet = s₂.cfg.alphabet → s₁.input = commands (encodeScript bytes) →
    (∀ r ∈ s₁.sinkReplies, r = .ok) → bytes.length + 2 ≤ s₁.sinkReplies.length →
    runSteps (bytes.length + 2) s₁ = .next t₁ → t₁.sink.flatten = s₁.sink.flatten ++ text →
    s₂.input = commands (decodeScript text) →
    (∀ r ∈ s₂.sinkReplies, r = .ok) → text.length + 2 ≤ s₂.sinkReplies.length →
    ∃ t₂, runSteps (text.length + 2) s₂ = .next t₂ ∧ t₂.eng.state = .done ∧
      t₂.sink.flatten = s₂.sink.flatten ++ bytes
end

