-- ==== Sys2Proof/Laws/State.lean ====
section
/-! SUPPORT. Sys2Proof/Laws/State.lean: one lemma per field per update of State and of the engine registers, so that no
later proof unfolds a record update. -/
namespace Sys2Proof.Machine

@[simp] theorem setEng_cfg (e : Engine) (s : State) : (s.setEng e).cfg = s.cfg := rfl
@[simp] theorem setEng_eng (e : Engine) (s : State) : (s.setEng e).eng = e := rfl
@[simp] theorem setEng_sink (e : Engine) (s : State) : (s.setEng e).sink = s.sink := rfl
@[simp] theorem setEng_responses (e : Engine) (s : State) : (s.setEng e).responses = s.responses := rfl
@[simp] theorem setEng_input (e : Engine) (s : State) : (s.setEng e).input = s.input := rfl
@[simp] theorem setEng_sinkReplies (e : Engine) (s : State) : (s.setEng e).sinkReplies = s.sinkReplies := rfl
@[simp] theorem setEng_sinkAsked (e : Engine) (s : State) : (s.setEng e).sinkAsked = s.sinkAsked := rfl

@[simp] theorem respond_cfg (r : RspCode) (d : Byte) (s : State) : (respond r d s).cfg = s.cfg := rfl
@[simp] theorem respond_eng (r : RspCode) (d : Byte) (s : State) : (respond r d s).eng = s.eng := rfl
@[simp] theorem respond_sink (r : RspCode) (d : Byte) (s : State) : (respond r d s).sink = s.sink := rfl
@[simp] theorem respond_responses (r : RspCode) (d : Byte) (s : State) : (respond r d s).responses = s.responses ++ [rspWord r d] := rfl
@[simp] theorem respond_input (r : RspCode) (d : Byte) (s : State) : (respond r d s).input = s.input := rfl
@[simp] theorem respond_sinkReplies (r : RspCode) (d : Byte) (s : State) : (respond r d s).sinkReplies = s.sinkReplies := rfl
@[simp] theorem respond_sinkAsked (r : RspCode) (d : Byte) (s : State) : (respond r d s).sinkAsked = s.sinkAsked := rfl

@[simp] theorem refuse_cfg (s : State) : (refuse s).cfg = s.cfg := rfl
@[simp] theorem refuse_eng (s : State) : (refuse s).eng = s.eng := rfl
@[simp] theorem refuse_sink (s : State) : (refuse s).sink = s.sink := rfl
@[simp] theorem refuse_responses (s : State) : (refuse s).responses = s.responses ++ [rspWord .refused 0#8] := rfl
@[simp] theorem refuse_input (s : State) : (refuse s).input = s.input := rfl
@[simp] theorem refuse_sinkReplies (s : State) : (refuse s).sinkReplies = s.sinkReplies := rfl
@[simp] theorem refuse_sinkAsked (s : State) : (refuse s).sinkAsked = s.sinkAsked := rfl

@[simp] theorem raise_cfg (k : ErrKind) (s : State) : (raise k s).cfg = s.cfg := rfl
@[simp] theorem raise_eng (k : ErrKind) (s : State) : (raise k s).eng = s.eng.faulted k := rfl
@[simp] theorem raise_sink (k : ErrKind) (s : State) : (raise k s).sink = s.sink := rfl
@[simp] theorem raise_responses (k : ErrKind) (s : State) : (raise k s).responses = s.responses ++ [rspWord (.error k) 0#8] := rfl
@[simp] theorem raise_input (k : ErrKind) (s : State) : (raise k s).input = s.input := rfl
@[simp] theorem raise_sinkReplies (k : ErrKind) (s : State) : (raise k s).sinkReplies = s.sinkReplies := rfl
@[simp] theorem raise_sinkAsked (k : ErrKind) (s : State) : (raise k s).sinkAsked = s.sinkAsked := rfl

@[simp] theorem clearEngine_cfg (s : State) : (clearEngine s).cfg = s.cfg := rfl
@[simp] theorem clearEngine_eng (s : State) : (clearEngine s).eng = Engine.reset := rfl
@[simp] theorem clearEngine_sink (s : State) : (clearEngine s).sink = s.sink := rfl
@[simp] theorem clearEngine_responses (s : State) : (clearEngine s).responses = s.responses := rfl
@[simp] theorem clearEngine_input (s : State) : (clearEngine s).input = s.input := rfl
@[simp] theorem clearEngine_sinkReplies (s : State) : (clearEngine s).sinkReplies = s.sinkReplies := rfl
@[simp] theorem clearEngine_sinkAsked (s : State) : (clearEngine s).sinkAsked = s.sinkAsked := rfl

@[simp] theorem pullReset_cfg (s : State) : (pullReset s).cfg = s.cfg := rfl
@[simp] theorem pullReset_eng (s : State) : (pullReset s).eng = Engine.reset := rfl
@[simp] theorem pullReset_sink (s : State) : (pullReset s).sink = s.sink := rfl
@[simp] theorem pullReset_responses (s : State) : (pullReset s).responses = s.responses := rfl
@[simp] theorem pullReset_input (s : State) : (pullReset s).input = s.input := rfl
@[simp] theorem pullReset_sinkReplies (s : State) : (pullReset s).sinkReplies = s.sinkReplies := rfl
@[simp] theorem pullReset_sinkAsked (s : State) : (pullReset s).sinkAsked = s.sinkAsked := rfl

@[simp] theorem accepted_cfg (s : State) : (accepted s).cfg = s.cfg := rfl
@[simp] theorem accepted_eng (s : State) : (accepted s).eng = { s.eng with incnt := s.eng.incnt + 1#64 } := rfl
@[simp] theorem accepted_sink (s : State) : (accepted s).sink = s.sink := rfl
@[simp] theorem accepted_responses (s : State) : (accepted s).responses = s.responses ++ [rspWord .ok 0#8] := rfl
@[simp] theorem accepted_input (s : State) : (accepted s).input = s.input := rfl
@[simp] theorem accepted_sinkReplies (s : State) : (accepted s).sinkReplies = s.sinkReplies := rfl
@[simp] theorem accepted_sinkAsked (s : State) : (accepted s).sinkAsked = s.sinkAsked := rfl

@[simp] theorem sinkReplied_cfg (s : State) : (s.sinkReplied).cfg = s.cfg := rfl
@[simp] theorem sinkReplied_eng (s : State) : (s.sinkReplied).eng = s.eng := rfl
@[simp] theorem sinkReplied_sink (s : State) : (s.sinkReplied).sink = s.sink := rfl
@[simp] theorem sinkReplied_responses (s : State) : (s.sinkReplied).responses = s.responses := rfl
@[simp] theorem sinkReplied_input (s : State) : (s.sinkReplied).input = s.input := rfl
@[simp] theorem sinkReplied_sinkReplies (s : State) : (s.sinkReplied).sinkReplies = s.sinkReplies.tail := rfl
@[simp] theorem sinkReplied_sinkAsked (s : State) : (s.sinkReplied).sinkAsked = s.sinkAsked + 1 := rfl

@[simp] theorem present_cfg (ev : HostEvent) (s : State) : (s.present ev).cfg = s.cfg := rfl
@[simp] theorem present_eng (ev : HostEvent) (s : State) : (s.present ev).eng = s.eng := rfl
@[simp] theorem present_sink (ev : HostEvent) (s : State) : (s.present ev).sink = s.sink := rfl
@[simp] theorem present_responses (ev : HostEvent) (s : State) : (s.present ev).responses = s.responses := rfl
@[simp] theorem present_input (ev : HostEvent) (s : State) : (s.present ev).input = ev :: s.input := rfl
@[simp] theorem present_sinkReplies (ev : HostEvent) (s : State) : (s.present ev).sinkReplies = s.sinkReplies := rfl
@[simp] theorem present_sinkAsked (ev : HostEvent) (s : State) : (s.present ev).sinkAsked = s.sinkAsked := rfl

@[simp] theorem faulted_state (k : ErrKind) (e : Engine) : (e.faulted k).state = .fault := rfl
@[simp] theorem faulted_dir (k : ErrKind) (e : Engine) : (e.faulted k).dir = e.dir := rfl
@[simp] theorem faulted_err (k : ErrKind) (e : Engine) : (e.faulted k).err = some k := rfl
@[simp] theorem faulted_acc (k : ErrKind) (e : Engine) : (e.faulted k).acc = 0#24 := rfl
@[simp] theorem faulted_cnt (k : ErrKind) (e : Engine) : (e.faulted k).cnt = 0#2 := rfl
@[simp] theorem faulted_pads (k : ErrKind) (e : Engine) : (e.faulted k).pads = 0#2 := rfl
@[simp] theorem faulted_fin (k : ErrKind) (e : Engine) : (e.faulted k).fin = false := rfl
@[simp] theorem faulted_obuf (k : ErrKind) (e : Engine) : (e.faulted k).obuf = [] := rfl
@[simp] theorem faulted_incnt (k : ErrKind) (e : Engine) : (e.faulted k).incnt = e.incnt := rfl
@[simp] theorem faulted_outcnt (k : ErrKind) (e : Engine) : (e.faulted k).outcnt = e.outcnt := rfl
@[simp] theorem faulted_errpos (k : ErrKind) (e : Engine) : (e.faulted k).errpos = e.incnt := rfl

@[simp] theorem drained_state (e : Engine) : (e.drained).state = e.state := rfl
@[simp] theorem drained_dir (e : Engine) : (e.drained).dir = e.dir := rfl
@[simp] theorem drained_err (e : Engine) : (e.drained).err = e.err := rfl
@[simp] theorem drained_acc (e : Engine) : (e.drained).acc = e.acc := rfl
@[simp] theorem drained_cnt (e : Engine) : (e.drained).cnt = e.cnt := rfl
@[simp] theorem drained_pads (e : Engine) : (e.drained).pads = e.pads := rfl
@[simp] theorem drained_fin (e : Engine) : (e.drained).fin = e.fin := rfl
@[simp] theorem drained_obuf (e : Engine) : (e.drained).obuf = [] := rfl
@[simp] theorem drained_incnt (e : Engine) : (e.drained).incnt = e.incnt := rfl
@[simp] theorem drained_outcnt (e : Engine) : (e.drained).outcnt = e.outcnt + BitVec.ofNat 64 e.obuf.length := rfl
@[simp] theorem drained_errpos (e : Engine) : (e.drained).errpos = e.errpos := rfl

@[simp] theorem closeGroup_state (e : Engine) : (closeGroup e).state = e.state := rfl
@[simp] theorem closeGroup_dir (e : Engine) : (closeGroup e).dir = e.dir := rfl
@[simp] theorem closeGroup_err (e : Engine) : (closeGroup e).err = e.err := rfl
@[simp] theorem closeGroup_acc (e : Engine) : (closeGroup e).acc = 0#24 := rfl
@[simp] theorem closeGroup_cnt (e : Engine) : (closeGroup e).cnt = 0#2 := rfl
@[simp] theorem closeGroup_pads (e : Engine) : (closeGroup e).pads = 0#2 := rfl
@[simp] theorem closeGroup_fin (e : Engine) : (closeGroup e).fin = (e.fin || decide (0#2 < e.pads)) := rfl
@[simp] theorem closeGroup_obuf (e : Engine) : (closeGroup e).obuf = e.obuf ++ decGroup e.pads e.acc := rfl
@[simp] theorem closeGroup_incnt (e : Engine) : (closeGroup e).incnt = e.incnt := rfl
@[simp] theorem closeGroup_outcnt (e : Engine) : (closeGroup e).outcnt = e.outcnt := rfl
@[simp] theorem closeGroup_errpos (e : Engine) : (closeGroup e).errpos = e.errpos := rfl

/-! What has been put out changes with the engine registers only, but for a burst, which moves items and adds none. -/

@[simp] theorem setEng_output (e : Engine) (s : State) : (s.setEng e).output = s.sink.flatten ++ e.obuf := rfl
@[simp] theorem respond_output (r : RspCode) (d : Byte) (s : State) : (respond r d s).output = s.output := rfl
@[simp] theorem refuse_output (s : State) : (refuse s).output = s.output := rfl
@[simp] theorem accepted_output (s : State) : (accepted s).output = s.output := rfl
@[simp] theorem sinkReplied_output (s : State) : (s.sinkReplied).output = s.output := rfl
@[simp] theorem present_output (ev : HostEvent) (s : State) : (s.present ev).output = s.output := rfl

@[simp] theorem engineReset_state : Engine.reset.state = .idle := rfl
@[simp] theorem engineReset_dir : Engine.reset.dir = .encode := rfl
@[simp] theorem engineReset_err : Engine.reset.err = none := rfl
@[simp] theorem engineReset_acc : Engine.reset.acc = 0#24 := rfl
@[simp] theorem engineReset_cnt : Engine.reset.cnt = 0#2 := rfl
@[simp] theorem engineReset_pads : Engine.reset.pads = 0#2 := rfl
@[simp] theorem engineReset_fin : Engine.reset.fin = false := rfl
@[simp] theorem engineReset_obuf : Engine.reset.obuf = [] := rfl
@[simp] theorem engineReset_incnt : Engine.reset.incnt = 0#64 := rfl
@[simp] theorem engineReset_outcnt : Engine.reset.outcnt = 0#64 := rfl
@[simp] theorem engineReset_errpos : Engine.reset.errpos = 0#64 := rfl

end Sys2Proof.Machine
end

