-- ==== Sys2Proof/Laws/Ops.lean ====
section
/-! SUPPORT. Sys2Proof/Laws/Ops.lean: what each shared operation can do, said once. -/
namespace Sys2Proof.Machine

/-! ### Numeric codes -/

/-- The response words without data, in the hexadecimal form of 30_encoding.md R65. -/
@[simp] theorem rspWord_ok_zero : rspWord .ok 0#8 = 0x000#12 := by decide
@[simp] theorem rspWord_refused_zero : rspWord .refused 0#8 = 0xF00#12 := by decide

theorem rspWord_error_zero (k : ErrKind) : rspWord (.error k) 0#8 = k.code ++ 0#8 := rfl

/-- A response other than REFUSED has another code. -/
theorem rspWord_ok_ne_refused (d : Byte) : rspWord .ok d ≠ 0xF00#12 := by
  intro h
  have := congrArg (fun w : RspWord => w.extractLsb' 8 4) h
  revert this; revert d; decide

/-- Neither has a response that carries an error kind. -/
theorem rspWord_error_ne_refused (k : ErrKind) (d : Byte) : rspWord (.error k) d ≠ 0xF00#12 := by
  intro h
  have := congrArg (fun w : RspWord => w.extractLsb' 8 4) h
  revert this; revert d; cases k <;> decide

/-! ### The sink and the chunk rule -/

/-- `flushDue` as a proposition (20_memory.md R54). -/
theorem flushDue_iff (force : Bool) (s : State) :
    flushDue force s = true ↔
      0 < s.eng.obuf.length ∧ (force = true ∨ ocap s.cfg s.eng.dir ≤ s.eng.obuf.length) := by
  simp [flushDue]

/-- All that `flush` can do, by whether a burst is due and what the sink replies. -/
theorem flush_eq (force : Bool) (s : State) :
    flush force s =
      if flushDue force s then
        match s.sinkReply with
        | .ok => .done { s.sinkReplied with sink := s.sink ++ [s.eng.obuf], eng := s.eng.drained }
        | .fail => .failed s.sinkReplied
        | .silent => .silent
      else .done s := by
  unfold flush sinkWrite
  cases flushDue force s <;> cases s.sinkReply <;> rfl

/-- No burst is due. -/
theorem flush_of_not_due {force : Bool} {s : State} (h : flushDue force s = false) : flush force s = .done s := by
  simp [flush_eq, h]

/-- A burst is due and accepted. -/
theorem flush_of_ok {force : Bool} {s : State} (h : flushDue force s = true) (hr : s.sinkReply = .ok) :
    flush force s = .done { s.sinkReplied with sink := s.sink ++ [s.eng.obuf], eng := s.eng.drained } := by
  simp [flush_eq, h, hr]

/-- A burst is due and answered `Fail`. -/
theorem flush_of_fail {force : Bool} {s : State} (h : flushDue force s = true) (hr : s.sinkReply = .fail) :
    flush force s = .failed s.sinkReplied := by
  simp [flush_eq, h, hr]

/-- A burst is due and never answered. -/
theorem flush_of_silent {force : Bool} {s : State} (h : flushDue force s = true) (hr : s.sinkReply = .silent) :
    flush force s = .silent := by
  simp [flush_eq, h, hr]

/-- What a command that ends in a flush can answer with a next state: it goes on without a burst, or after an accepted
one, or it raises IOError after a burst answered `Fail`. -/
theorem flush_finish_next {force : Bool} {s t : State} {k : State → State} (h : (flush force s).finish k = .next t) :
    (flushDue force s = false ∧ t = k s) ∨
    (flushDue force s = true ∧ s.sinkReply = .ok ∧
      t = k { s.sinkReplied with sink := s.sink ++ [s.eng.obuf], eng := s.eng.drained }) ∨
    (flushDue force s = true ∧ s.sinkReply = .fail ∧ t = raise .ioError s.sinkReplied) := by
  cases hd : flushDue force s
  · rw [flush_of_not_due hd] at h
    exact .inl ⟨rfl, by simpa [Flushed.finish] using h.symm⟩
  · cases hr : s.sinkReply
    · rw [flush_of_ok hd hr] at h
      exact .inr (.inl ⟨rfl, rfl, by simpa [Flushed.finish] using h.symm⟩)
    · rw [flush_of_fail hd hr] at h
      exact .inr (.inr ⟨rfl, rfl, by simpa [Flushed.finish] using h.symm⟩)
    · rw [flush_of_silent hd hr] at h
      simp [Flushed.finish] at h

/-- A command that ends in a flush stops only where the sink never answers the burst that is due. -/
theorem flush_finish_fault {force : Bool} {s : State} {k : State → State} {f : Fault}
    (h : (flush force s).finish k = .fault f) : flushDue force s = true ∧ s.sinkReply = .silent := by
  cases hd : flushDue force s
  · simp [flush_of_not_due hd, Flushed.finish] at h
  · cases hr : s.sinkReply
    · simp [flush_of_ok hd hr, Flushed.finish] at h
    · simp [flush_of_fail hd hr, Flushed.finish] at h
    · exact ⟨rfl, rfl⟩

/-- A command that ends in a flush is never without a meaning. -/
theorem flush_finish_ne_refused {force : Bool} {s : State} {k : State → State} {r : Refusal} :
    (flush force s).finish k ≠ .refused r := by
  cases h : flush force s <;> simp [Flushed.finish]

end Sys2Proof.Machine
end

