-- ==== Sys2Proof/Laws/Commands.lean ====
section
/-! SUPPORT. Sys2Proof/Laws/Commands.lean: what each command can answer with a next state, said once (inversion lemmas),
so that no later proof unfolds a meaning. -/
namespace Sys2Proof.Machine

/-- Writing back the registers as they are changes nothing. -/
@[simp] theorem setEng_eng_self (s : State) : s.setEng s.eng = s := rfl

/-- The registers with which PUT in the encode direction reaches the chunk rule: the group is complete. -/
def encClosed (b : Byte) (s : State) : Engine :=
  { s.eng with
    obuf := s.eng.obuf ++ encGroup s.cfg (placeByte s.eng.cnt b s.eng.acc), acc := 0#24, cnt := 0#2 }

/-- The registers with which END in the encode direction reaches the chunk rule. -/
def encTailed (s : State) : Engine :=
  { s.eng with obuf := s.eng.obuf ++ encTail s.cfg s.eng.cnt s.eng.acc }

/-- The registers after END in the encode direction, once everything is flushed. -/
def encEnded (e : Engine) : Engine := { e with acc := 0#24, cnt := 0#2, state := .done }

/-- The registers after END in the decode direction, once everything is flushed. -/
def decEnded (e : Engine) : Engine := { e with fin := false, state := .done }

/-- The state in which the sink has accepted the whole of OBUF from the registers `e` (20_memory.md R54). -/
def flushed (s : State) (e : Engine) : State :=
  { s.sinkReplied with sink := s.sink ++ [e.obuf], eng := e.drained }

/-- An accepted burst moves the items of OBUF to the sink: none is added, lost or reordered. -/
@[simp] theorem flushed_output (s : State) (e : Engine) : (flushed s e).output = s.sink.flatten ++ e.obuf := by
  simp [State.output, flushed]

/-- The ways a command goes on from the registers `e` at the chunk rule to a next state. -/
theorem flush_setEng_next {force : Bool} {s t : State} {e : Engine} {k : State → State}
    (h : (flush force (s.setEng e)).finish k = .next t) :
    (flushDue force (s.setEng e) = false ∧ t = k (s.setEng e)) ∨
    (flushDue force (s.setEng e) = true ∧ s.sinkReply = .ok ∧ t = k (flushed s e)) ∨
    (flushDue force (s.setEng e) = true ∧ s.sinkReply = .fail ∧ t = raise .ioError (s.sinkReplied.setEng e)) :=
  flush_finish_next h

/-- All that PUT in the encode direction can do (41_encode.md R90). -/
theorem putEncode_next {b : Byte} {s t : State} (h : putEncode b s = .next t) :
    (s.eng.cnt < 2#2 ∧
      t = accepted (s.setEng { s.eng with acc := placeByte s.eng.cnt b s.eng.acc, cnt := s.eng.cnt + 1#2 })) ∨
    (¬ s.eng.cnt < 2#2 ∧ (flush false (s.setEng (encClosed b s))).finish accepted = .next t) := by
  unfold putEncode at h
  by_cases hc : s.eng.cnt < 2#2
  · exact .inl ⟨hc, by simpa [hc] using h.symm⟩
  · exact .inr ⟨hc, by simpa [hc, encClosed] using h⟩

/-- All that PUT in the decode direction can do (42_decode.md R98). -/
theorem putDecode_next {c : Byte} {s t : State} (h : putDecode c s = .next t) :
    (∃ k, checkChar s.cfg s.eng c = some k ∧ t = raise k s) ∨
    (checkChar s.cfg s.eng c = none ∧ s.eng.cnt < 3#2 ∧
      t = accepted (s.setEng { takeChar s.cfg c s.eng with cnt := s.eng.cnt + 1#2 })) ∨
    (checkChar s.cfg s.eng c = none ∧ ¬ s.eng.cnt < 3#2 ∧
      (flush false (s.setEng (closeGroup (takeChar s.cfg c s.eng)))).finish accepted = .next t) := by
  unfold putDecode at h
  cases hk : checkChar s.cfg s.eng c with
  | some k => exact .inl ⟨k, rfl, by simpa [hk] using h.symm⟩
  | none =>
    by_cases hc : s.eng.cnt < 3#2
    · exact .inr (.inl ⟨rfl, hc, by simpa [hk, hc] using h.symm⟩)
    · exact .inr (.inr ⟨rfl, hc, by simpa [hk, hc] using h⟩)

/-- All that PUT can do (30_encoding.md R71, 43_control.md R108). -/
theorem execPut_next {x : Byte} {s t : State} (h : execPut x s = .next t) :
    (s.eng.state ≠ .run ∧ t = refuse s) ∨
    (s.eng.state = .run ∧ s.eng.dir = .encode ∧ putEncode x s = .next t) ∨
    (s.eng.state = .run ∧ s.eng.dir = .decode ∧ putDecode x s = .next t) := by
  unfold execPut at h
  by_cases hs : s.eng.state = .run
  · cases hd : s.eng.dir
    · exact .inr (.inl ⟨hs, rfl, by simpa [hs, hd] using h⟩)
    · exact .inr (.inr ⟨hs, rfl, by simpa [hs, hd] using h⟩)
  · exact .inl ⟨hs, by simpa [hs] using h.symm⟩

/-- All that END can do (30_encoding.md R72, 41_encode.md R91, 42_decode.md R99). -/
theorem execEnd_next {s t : State} (h : execEnd s = .next t) :
    (s.eng.state ≠ .run ∧ t = refuse s) ∨
    (s.eng.state = .run ∧ s.eng.dir = .encode ∧ (flush true (s.setEng (encTailed s))).finish
      (fun u => respond .ok 0#8 (u.setEng (encEnded u.eng))) = .next t) ∨
    (s.eng.state = .run ∧ s.eng.dir = .decode ∧ s.eng.cnt ≠ 0#2 ∧ t = raise .invalidLength s) ∨
    (s.eng.state = .run ∧ s.eng.dir = .decode ∧ s.eng.cnt = 0#2 ∧ (flush true (s.setEng s.eng)).finish
      (fun u => respond .ok 0#8 (u.setEng (decEnded u.eng))) = .next t) := by
  unfold execEnd at h
  by_cases hs : s.eng.state = .run
  · cases hd : s.eng.dir
    · exact .inr (.inl ⟨hs, rfl, by simpa [hs, hd, endEncode, encTailed, encEnded] using h⟩)
    · by_cases hc : s.eng.cnt = 0#2
      · exact .inr (.inr (.inr ⟨hs, rfl, hc, by simpa [hs, hd, endDecode, hc, decEnded] using h⟩))
      · exact .inr (.inr (.inl ⟨hs, rfl, hc, by simpa [hs, hd, endDecode, hc] using h.symm⟩))
  · exact .inl ⟨hs, by simpa [hs] using h.symm⟩

/-- All that ENC can do (41_encode.md R89). -/
theorem execEnc_next {s t : State} (h : execEnc s = .next t) :
    (s.eng.state = .idle ∧ t = respond .ok 0#8 (s.setEng { s.eng with state := .run, dir := .encode })) ∨
    (s.eng.state ≠ .idle ∧ t = refuse s) := by
  unfold execEnc at h
  by_cases hs : s.eng.state = .idle
  · exact .inl ⟨hs, by simpa [hs] using h.symm⟩
  · exact .inr ⟨hs, by simpa [hs] using h.symm⟩

/-- All that DEC can do (42_decode.md R97). -/
theorem execDec_next {s t : State} (h : execDec s = .next t) :
    (s.eng.state = .idle ∧ t = respond .ok 0#8 (s.setEng { s.eng with state := .run, dir := .decode })) ∨
    (s.eng.state ≠ .idle ∧ t = refuse s) := by
  unfold execDec at h
  by_cases hs : s.eng.state = .idle
  · exact .inl ⟨hs, by simpa [hs] using h.symm⟩
  · exact .inr ⟨hs, by simpa [hs] using h.symm⟩

/-- All that ABT can do (43_control.md R105). -/
theorem execAbt_next {s t : State} (h : execAbt s = .next t) :
    (s.eng.state = .run ∧ t = raise .ioError s) ∨ (s.eng.state ≠ .run ∧ t = refuse s) := by
  unfold execAbt at h
  by_cases hs : s.eng.state = .run
  · exact .inl ⟨hs, by simpa [hs] using h.symm⟩
  · exact .inr ⟨hs, by simpa [hs] using h.symm⟩

/-- All that CLR can do (43_control.md R106). -/
theorem execClr_next {s t : State} (h : execClr s = .next t) :
    (s.eng.state = .run ∧ t = refuse s) ∨ (s.eng.state ≠ .run ∧ t = respond .ok 0#8 (clearEngine s)) := by
  unfold execClr at h
  by_cases hs : s.eng.state = .run
  · exact .inl ⟨hs, by simpa [hs] using h.symm⟩
  · exact .inr ⟨hs, by simpa [hs] using h.symm⟩

/-- A lookup gives one response and does nothing else (40_alphabet_lut.md R85). -/
theorem execSym_next {arg : Byte} {s t : State} (h : execSym arg s = .next t) : ∃ r d, t = respond r d s := by
  unfold execSym at h
  split at h
  · exact ⟨.refused, 0#8, by simpa [refuse] using h.symm⟩
  · exact ⟨_, _, (Host.Outcome.next.inj h).symm⟩

/-- A lookup gives one response and does nothing else (40_alphabet_lut.md R86). -/
theorem execIdx_next {char : Byte} {s t : State} (h : execIdx char s = .next t) : ∃ r d, t = respond r d s := by
  unfold execIdx at h
  split at h <;> exact ⟨_, _, (Host.Outcome.next.inj h).symm⟩

/-- What one step of the machine is, by the host's next event. -/
theorem step_next {s t : State} (h : step s = .next t) :
    (s.input = [] ∧ t = s) ∨
    (∃ rest, s.input = .reset :: rest ∧ t = pullReset { s with input := rest }) ∨
    (∃ w rest r, s.input = .command w :: rest ∧ decode w = .reserved r ∧ t = refuse { s with input := rest }) ∨
    (∃ w rest i, s.input = .command w :: rest ∧ decode w = .command i ∧ exec i { s with input := rest } = .next t) := by
  unfold step at h
  split at h
  · next hi => exact .inl ⟨hi, by simpa using h.symm⟩
  · next rest hi => exact .inr (.inl ⟨rest, hi, by simpa using h.symm⟩)
  · next w rest hi =>
    cases hd : decode w with
    | command i => exact .inr (.inr (.inr ⟨w, rest, i, hi, hd, by simpa [hd] using h⟩))
    | reserved r => exact .inr (.inr (.inl ⟨w, rest, r, hi, hd, by simpa [hd, executeReserved] using h.symm⟩))

end Sys2Proof.Machine
end

