-- ==== Sys2Proof/Laws/Operands.lean ====
section
/-! SUPPORT. Sys2Proof/Laws/Operands.lean: what the slices of the accumulator read and write, said once. -/
namespace Sys2Proof.Machine

/-! ### Writing a slice leaves the bits below it as they are -/

/-- `ACC[23-8*CNT : 16-8*CNT] <- b` writes no bit below the slice. -/
theorem placeByte_low {cnt : BitVec 2} {b : Byte} {acc : Group} {j : Nat} (hj : j < 16 - 8 * cnt.toNat) :
    (placeByte cnt b acc).getLsbD j = acc.getLsbD j := by
  unfold placeByte
  split
  · next h =>
    have hj' : j < 16 := by omega
    exact (BitVec.getLsbD_append (x := b) (y := acc.extractLsb' 0 16)).trans (by simp [hj'])
  · next h =>
    have hj' : j < 8 := by omega
    exact (BitVec.getLsbD_append (x := acc.extractLsb' 16 8 ++ b) (y := acc.extractLsb' 0 8)).trans (by simp [hj'])
  · omega
  · rfl

/-- `ACC[23-6*CNT : 18-6*CNT] <- i` writes no bit below the slice. -/
theorem placeIndex_low {cnt : BitVec 2} {i : Index} {acc : Group} {j : Nat} (hj : j < 18 - 6 * cnt.toNat) :
    (placeIndex cnt i acc).getLsbD j = acc.getLsbD j := by
  unfold placeIndex
  split
  · next h =>
    have hj' : j < 18 := by omega
    exact (BitVec.getLsbD_append (x := i) (y := acc.extractLsb' 0 18)).trans (by simp [hj'])
  · next h =>
    have hj' : j < 12 := by omega
    exact (BitVec.getLsbD_append (x := acc.extractLsb' 18 6 ++ i) (y := acc.extractLsb' 0 12)).trans (by simp [hj'])
  · next h =>
    have hj' : j < 6 := by omega
    exact (BitVec.getLsbD_append (x := acc.extractLsb' 12 12 ++ i) (y := acc.extractLsb' 0 6)).trans (by simp [hj'])
  · have h3 : cnt.toNat = 3 := by
      have := cnt.isLt
      simp_all
      omega
    omega

/-! ### Lengths -/

@[simp] theorem encGroup_length (c : Config) (g : Group) : (encGroup c g).length = 4 := rfl

/-- The tail of an encode stream is one group of four characters, or nothing. -/
theorem encTail_length (c : Config) (cnt : BitVec 2) (g : Group) :
    (encTail c cnt g).length = 4 ∧ (cnt = 1#2 ∨ cnt = 2#2) ∨ encTail c cnt g = [] ∧ cnt ≠ 1#2 ∧ cnt ≠ 2#2 := by
  unfold encTail
  split
  · exact .inl ⟨rfl, .inl ‹_›⟩
  · split
    · exact .inl ⟨rfl, .inr ‹_›⟩
    · exact .inr ⟨rfl, ‹_›, ‹_›⟩

/-- A group of `pads` padding characters puts out `3 - pads` bytes. -/
theorem decGroup_length (pads : BitVec 2) (g : Group) : (decGroup pads g).length = 3 - pads.toNat := by
  unfold decGroup
  split
  · simp_all
  · split
    · simp_all
    · split
      · simp_all
      · have : pads = 3#2 := by bv_omega
        simp [this]

/-! ### Character classes -/

/-- A character is in class `sym i` exactly when the table gives it the index `i` (40_alphabet_lut.md R84). -/
theorem classOf_eq_sym {c : Config} {x : Byte} {i : Index} : classOf c x = .sym i ↔ indexOf c x = some i := by
  unfold classOf
  cases indexOf c x with
  | some k => simp
  | none => cases isPad x <;> simp

/-- A character is `BAD` exactly when check 1 of 42_decode.md R98 fires. -/
theorem classOf_eq_bad {c : Config} {x : Byte} : classOf c x = .bad ↔ nia (decLut c x) = true ∧ isPad x = false := by
  unfold classOf indexOf
  cases nia (decLut c x) <;> cases isPad x <;> simp

/-- `indexOf` by the entry of the table (40_alphabet_lut.md R82). -/
theorem indexOf_eq_some {c : Config} {x : Byte} {i : Index} :
    indexOf c x = some i ↔ nia (decLut c x) = false ∧ entryIndex (decLut c x) = i := by
  unfold indexOf
  cases nia (decLut c x) <;> simp

end Sys2Proof.Machine
end

