-- ==== Sys2Proof/Laws/PerInstr.lean ====
section
/-! SUPPORT. Sys2Proof/Laws/PerInstr.lean: a fact of every command as syntax, one lemma per constructor: its word lies in
its own row of the table (30_encoding.md R67). -/
namespace Sys2Proof.Laws.InOwnRow

/-- The word of a well-formed command selects the command's own row. -/
def Statement (i : Instr) : Prop := WellFormed i → selectsRow (encode i) (tableRow i) = true

theorem enc : Statement .enc := fun _ => by decide
theorem dec : Statement .dec := fun _ => by decide
theorem put (item : Byte) : Statement (.put item) := fun _ => by revert item; decide
theorem end_ : Statement .end_ := fun _ => by decide
theorem abt : Statement .abt := fun _ => by decide
theorem clr : Statement .clr := fun _ => by decide
theorem sym (arg : Byte) : Statement (.sym arg) := by revert arg; unfold Statement; decide
theorem idx (char : Byte) : Statement (.idx char) := fun _ => by revert char; decide

end Sys2Proof.Laws.InOwnRow
end

