-- ==== Sys2Proof/Tests/Slice0.lean ====
section
/-! SUPPORT. Sys2Proof/Tests/Slice0.lean: words written out from 30_encoding.md R67, single steps with the values of the
spec's own examples (95_test_vectors.md), and for every statement with hypotheses a concrete state that meets them. -/
namespace Sys2Proof.Tests

open Sys2Proof Sys2Proof.Machine

/-! ### Helpers -/

/-- The alphabet of R17 with a given K. -/
def cfgK (k : BitVec 16) : Config := { alphabet := i2pAlphabet, chunkGroups := k }

/-- A state with the given K, registers and sink replies, and nothing else. -/
def stK (k : BitVec 16) (e : Engine) (replies : List SinkReply) : State :=
  { cfg := cfgK k, eng := e, sink := [], responses := [], input := [], sinkReplies := replies, sinkAsked := 0 }

/-- An open encode stream. -/
def runEnc (acc : Group) (cnt : BitVec 2) (obuf : List Byte) (incnt : Counter) : Engine :=
  { Engine.reset with state := .run, acc := acc, cnt := cnt, obuf := obuf, incnt := incnt }

/-- An open decode stream. -/
def runDec (acc : Group) (cnt pads : BitVec 2) (fin : Bool) (obuf : List Byte) (incnt : Counter) : Engine :=
  { Engine.reset with
    state := .run, dir := .decode, acc := acc, cnt := cnt, pads := pads, fin := fin, obuf := obuf, incnt := incnt }

/-- A stream ended by a fault. -/
def faultE : Engine := (runDec 0 0 0 false [] 6).faulted .invalidSymbol

/-- The result is a next state for which `p` holds. -/
def answers (r : Result) (p : State → Bool) : Bool :=
  match r with
  | .next t => p t
  | .fault _ | .refused _ => false

/-! ### Encodings and well-formedness -/

theorem test_word_enc : decode 0b000100000000#12 = .command .enc := by decide
theorem test_word_dec : decode 0b001000000000#12 = .command .dec := by decide
theorem test_word_put_h : decode 0b001101101000#12 = .command (.put 0x68#8) := by decide
theorem test_word_end : decode 0b010000000000#12 = .command .end_ := by decide
theorem test_word_abt : decode 0b010100000000#12 = .command .abt := by decide
theorem test_word_clr : decode 0b011000000000#12 = .command .clr := by decide
theorem test_word_sym_62 : decode 0b100000111110#12 = .command (.sym 62#8) := by decide
theorem test_word_idx_plus : decode 0b100100101011#12 = .command (.idx 0x2B#8) := by decide
theorem test_word_reserved_op : decode 0x000#12 = .reserved .opcode ∧ decode 0xFFF#12 = .reserved .opcode := by decide
theorem test_word_reserved_arg : decode 0x101#12 = .reserved .argument := by decide
theorem test_word_reserved_index : decode 0x840#12 = .reserved .index := by decide
/-- The smoke test of the one check of WellFormed (R66): index 64 is refused, 63 is not. -/
theorem test_wellFormed_refuses_index_64 :
    (Instr.sym 64#8).wellFormed = false ∧ (Instr.sym 63#8).wellFormed = true := by decide
theorem test_table_word_beyond_12_bits : decodeTableWord 16 0x1100 = none := by decide
/-- R79's own examples. -/
theorem test_assembler : assembleLine ['P', 'U', 'T', ' ', '\'', 'h', '\''] = some [0x368#12] ∧
    assembleLine ['S', 'Y', 'M', ' ', '6', '2'] = some [0x83E#12] ∧
    assembleLine ['E', 'N', 'D', ' ', '#', 'x'] = some [0x400#12] ∧
    assembleLine ['W', 'O', 'R', 'D', ' ', '0', 'x', '8', '4', '0'] = some [0x840#12] := by decide
/-- R80: `ENCODE 0x68` is ENC, one PUT, END. -/
theorem test_encode_pseudo : assembleLine ['E', 'N', 'C', 'O', 'D', 'E', ' ', '0', 'x', '6', '8'] =
    some [0x100#12, 0x368#12, 0x400#12] := by decide

/-- Vectors D42 and D50: the octets 0x0A and 0xFF in a DECODE text. -/
theorem test_decode_text_of_any_octet :
    assembleLine (['D', 'E', 'C', 'O', 'D', 'E', ' ', '"'] ++ [Char.ofNat 0x0A, Char.ofNat 0xFF] ++ ['"']) =
      some [0x200#12, 0x30A#12, 0x3FF#12, 0x400#12] := by decide

/-! ### Single steps of the spec's examples -/

/-- Vector L7. -/
theorem test_sym_62 : answers (exec (.sym 62#8) (stK 1 Engine.reset [])) (fun t => t.responses == [0x02D#12]) := by decide
/-- Vector L19: the padding symbol is not in the alphabet. -/
theorem test_idx_pad : answers (exec (.idx 0x3D#8) (stK 1 Engine.reset [])) (fun t => t.responses == [0x180#12]) := by
  decide
/-- Vector L17. -/
theorem test_idx_minus : answers (exec (.idx 0x2D#8) (stK 1 Engine.reset [])) (fun t => t.responses == [0x03E#12]) := by
  decide
/-- Program P1, command 3: the second byte. -/
theorem test_put_encode_second : answers (exec (.put 0x65#8) (stK 1 (runEnc 0x680000 1 [] 1) []))
    (fun t => t.eng.acc == 0x686500#24 && t.eng.cnt == 2#2 && t.eng.incnt == 2#64) := by decide
/-- Program P1, command 4: the third byte completes the group and the chunk, burst `aGVs`. -/
theorem test_put_encode_third : answers (exec (.put 0x6C#8) (stK 1 (runEnc 0x686500 2 [] 2) [.ok]))
    (fun t => t.sink == [[0x61#8, 0x47#8, 0x56#8, 0x73#8]] && t.eng.outcnt == 4#64 && t.eng.incnt == 3#64) := by decide
/-- Program P5, command 7: the sink fails the burst. -/
theorem test_put_encode_sink_fail : answers (exec (.put 0x21#8) (stK 1 (runEnc 0x6C6F00 2 [] 5) [.fail]))
    (fun t => t.responses == [0x400#12] && t.eng.errpos == 5#64 && t.eng.incnt == 5#64 && t.eng.state == .fault) := by
  decide
/-- Program P1, command 7: END with two bytes left, burst `bG8=`. -/
theorem test_end_encode_two_left : answers (exec .end_ (stK 1 (runEnc 0x6C6F00 2 [] 5) [.ok]))
    (fun t => t.sink == [[0x62#8, 0x47#8, 0x38#8, 0x3D#8]] && t.eng.state == .done && t.eng.incnt == 5#64) := by decide
/-- Vector D4: END inside a group. -/
theorem test_end_decode_inside_group : answers (exec .end_ (stK 1 (runDec 0 3 0 false [] 3) []))
    (fun t => t.responses == [0x200#12] && t.eng.errpos == 3#64) := by decide
/-- Program P2, command 4: the third character. -/
theorem test_put_decode_third : answers (exec (.put 0x56#8) (stK 2 (runDec 0x686000 2 0 false [] 2) []))
    (fun t => t.eng.acc == 0x686540#24 && t.eng.cnt == 3#2) := by decide
/-- Program P2, command 9: the padding character completes a padded group. -/
theorem test_put_decode_padded : answers (exec (.put 0x3D#8) (stK 2 (runDec 0x6C6F00 3 0 false [0x68, 0x65, 0x6C] 7) []))
    (fun t => t.eng.obuf == [0x68#8, 0x65#8, 0x6C#8, 0x6C#8, 0x6F#8] && t.eng.fin && t.eng.pads == 0#2) := by decide
/-- 41_encode.md R89's example. -/
theorem test_enc_from_reset : answers (exec .enc (stK 1 Engine.reset []))
    (fun t => t.responses == [0x000#12] && sr0 t == 0x01#8) := by decide
/-- 42_decode.md R97's example. -/
theorem test_dec_from_reset : answers (exec .dec (stK 1 Engine.reset []))
    (fun t => t.responses == [0x000#12] && sr0 t == 0x05#8) := by decide
/-- Program P6, command 6: the buffered characters are discarded. -/
theorem test_abt_discards : answers (exec .abt (stK 4 (runEnc 0x6C0000 1 [0x61, 0x47, 0x56, 0x73] 4) []))
    (fun t => t.responses == [0x400#12] && t.eng.obuf == [] && t.eng.errpos == 4#64 && t.sink == []) := by decide
/-- Vectors T7 and T8: CLR in IDLE answers 000, in RUN F00. -/
theorem test_clr_refused_in_run : answers (exec .clr (stK 1 (runEnc 0 0 [] 0) [])) (fun t => t.responses == [0xF00#12]) ∧
    answers (exec .clr (stK 1 Engine.reset [])) (fun t => t.responses == [0x000#12]) := by decide
/-- SR0 after step 8 of program P3. -/
theorem test_sr0_after_fault : sr0 (stK 1 faultE []) = 0x17#8 := by decide
/-- Vector X16, right to left and left to right. -/
theorem test_enc_of_FBEFBE : enc (cfgK 1) [0xFB, 0xEF, 0xBE] = [0x2D, 0x2D, 0x2D, 0x2D] := by decide
/-- Vector D46: check 1 precedes check 4. -/
theorem test_dec_priority : dec (cfgK 1) [0x41, 0x41, 0x3D, 0x24] = .err .invalidSymbol 3 := by decide
/-- A program comes to run from reset by being presented: the word of ENC is the first command (log 3). -/
theorem test_fetch_from_reset : answers (step (State.reset.withFetchWord 16 0x100))
    (fun t => t.eng.state == .run && t.responses == [0x000#12]) := by decide

/-! ### Witnesses: the hypotheses of each statement met by a concrete state -/

theorem valid_cfg : ValidConfig (cfgK 1) ∧ ValidConfig (cfgK 0xFFFF) := by decide +kernel

/-- The reset registers meet R38 whatever K is. -/
theorem inv_reset (k : BitVec 16) (h : ValidConfig (cfgK k)) (replies : List SinkReply) (input : List HostEvent) :
    ({ stK k Engine.reset replies with input := input } : State).Inv :=
  ⟨h, by
    have hk : 0 < k.toNat := by
      have := h.2.2
      simp only [cfgK] at this
      bv_omega
    constructor <;> simp [Engine.reset, stK, cfgK, ocap, hk]⟩

/-- A stream just opened meets R38: encode. -/
theorem inv_runEnc (replies : List SinkReply) : (stK 1 (runEnc 0 0 [] 0) replies).Inv :=
  ⟨valid_cfg.1, by constructor <;> simp [runEnc, Engine.reset, stK, cfgK, ocap]⟩

/-- A stream just opened meets R38: decode. -/
theorem inv_runDec (replies : List SinkReply) : (stK 1 (runDec 0 0 0 false [] 0) replies).Inv :=
  ⟨valid_cfg.1, by constructor <;> simp [runDec, Engine.reset, stK, cfgK, ocap]⟩

/-- A decode stream after `AA=` meets R38. -/
theorem inv_runDec_padded (replies : List SinkReply) : (stK 1 (runDec 0 3 1 false [] 3) replies).Inv :=
  ⟨valid_cfg.1, by constructor <;> simp [runDec, Engine.reset, stK, cfgK, ocap]⟩

theorem witness_DecodeOfEncodeIsTheCommand : WellFormed (.sym 63#8) ∧ WellFormed (.put 0xFF#8) := by decide
theorem witness_EncodeOfDecodeIsTheWord : decode 0x83F#12 = .command (.sym 63#8) := by decide
theorem witness_StepRunsTheDecodedCommand :
    WellFormed .enc ∧ ((stK 1 Engine.reset []).present (.command (encode .enc))).input = [.command (encode .enc)] := by
  decide
theorem witness_ReservedWordIsRefused :
    (∀ row ∈ tableRows, selectsRow 0x840#12 row = false) ∧ (∀ row ∈ tableRows, selectsRow 0x101#12 row = false) ∧
      ((stK 1 faultE []).present (.command 0x840#12)).input = [.command 0x840#12] :=
  ⟨by simp [tableRows, tableRow, selectsRow], by simp [tableRows, tableRow, selectsRow], rfl⟩
theorem witness_ResetClearsTheEngineOnly :
    ((stK 1 faultE []).present .reset).input = [.reset] ∧ (stK 1 faultE []).eng.state = .fault := by decide
theorem witness_EveryCommandHasOneResponse :
    answers (step ((stK 1 faultE []).present .reset)) (fun t => t.input == []) ∧
      answers (step ((stK 1 faultE []).present (.command 0x600#12))) (fun t => t.responses == [0x000#12]) ∧
      answers (step (stK 1 faultE [])) (fun t => t == stK 1 faultE []) := by decide
theorem witness_AScriptExecutesItsCommandsInOrder : ∀ i ∈ [Instr.enc, .put 0x68#8, .sym 63#8], WellFormed i := by decide
theorem witness_TheTablesAreInverse :
    ValidConfig (cfgK 1) ∧ indexOf (cfgK 1) 0x7E#8 = some 63#6 ∧
      exec (.sym (0#2 ++ 63#6)) (stK 1 Engine.reset []) = .next ((stK 1 Engine.reset []).answer (0x0#4 ++ 0x7E#8)) :=
  ⟨valid_cfg.1, by decide, rfl⟩
theorem witness_DecLutEntryFormat : ValidConfig (cfgK 1) := valid_cfg.1
theorem witness_IdxAnswersOkForSixtyFourCharacters : ValidConfig (stK 0xFFFF Engine.reset []).cfg := valid_cfg.2
theorem witness_SymAnswersTheSymbol :
    (63#8).extractLsb' 6 2 = 0#2 ∧ (64#8).extractLsb' 6 2 ≠ 0#2 ∧ ValidConfig (stK 1 Engine.reset []).cfg :=
  ⟨by decide, by decide, valid_cfg.1⟩
theorem witness_IdxAnswersTheIndex :
    (decLut (cfgK 1) 0x3D#8).getLsbD 7 = true ∧ (decLut (cfgK 1) 0x7E#8).getLsbD 7 = false := by decide
theorem witness_EncOpensAnEncodeStream :
    (stK 1 Engine.reset []).eng.state = .idle ∧ (stK 1 faultE []).eng.state ≠ .idle ∧ 0xFF#8 ≠ 0#8 ∧
      ((stK 1 faultE []).present (.command (0x1#4 ++ 0xFF#8))).input = [.command 0x1FF#12] := by decide
theorem witness_DecOpensADecodeStream :
    (stK 1 Engine.reset []).eng.state = .idle ∧ (stK 1 faultE []).eng.state ≠ .idle ∧ 0x01#8 ≠ 0#8 ∧
      ((stK 1 faultE []).present (.command (0x2#4 ++ 0x01#8))).input = [.command 0x201#12] := by decide
theorem witness_PutEncodesAByte :
    (stK 1 faultE []).eng.state ≠ .run ∧ (runEnc 0 0 [] 0).state = .run ∧ (runEnc 0 0 [] 0).dir = .encode ∧
      (runEnc 0 0 [] 0).cnt = 0#2 ∧ (runEnc 0x680000 1 [] 1).cnt = 1#2 ∧ (runEnc 0x686500 2 [] 2).cnt = 2#2 := by decide
/-- Each clause of EndsWithFlush: K = 1 fills the chunk, K = 2 does not, and each reply occurs. -/
theorem witness_EndsWithFlush :
    4 * (stK 1 Engine.reset []).cfg.chunkGroups.toNat ≤ 4 ∧ ¬ 4 * (stK 2 Engine.reset []).cfg.chunkGroups.toNat ≤ 4 ∧
      (stK 1 Engine.reset [.ok]).sinkReply = .ok ∧ (stK 1 Engine.reset [.fail]).sinkReply = .fail ∧
      (stK 1 Engine.reset [.silent]).sinkReply = .silent := by decide
theorem witness_EndEncodesTheTail :
    (stK 1 Engine.reset []).eng.state ≠ .run ∧ (runEnc 0 0 [] 0).state = .run ∧ (runEnc 0 0 [] 0).dir = .encode ∧
      (runEnc 0 0 [] 0).cnt = 0#2 ∧ (runEnc 0x680000 1 [] 1).cnt = 1#2 ∧ (runEnc 0x686500 2 [] 2).cnt = 2#2 ∧
      ((stK 1 faultE []).present (.command (0x4#4 ++ 0x01#8))).input = [.command 0x401#12] := by decide
theorem witness_PutDecodeChecks :
    (runDec 0 0 0 false [] 0).state = .run ∧ (runDec 0 0 0 false [] 0).dir = .decode ∧
      (decLut (cfgK 1) 0x24#8).getLsbD 7 = true ∧ 0x24#8 ≠ 0x3D#8 ∧ (decLut (cfgK 1) 0x41#8).getLsbD 7 = false ∧
      (runDec 0 0 0 true [0, 0] 4).fin = true ∧ (runDec 0 1 0 false [] 1).cnt < 2#2 ∧
      0#2 < (runDec 0 3 1 false [] 3).pads := by decide
theorem witness_PutDecodesASymbol :
    (runDec 0 0 0 false [] 0).state = .run ∧ (runDec 0 0 0 false [] 0).dir = .decode ∧ 0x7E#8 ≠ 0x3D#8 ∧
      decLut (cfgK 1) 0x7E#8 = 0#2 ++ 63#6 ∧ (runDec 0 0 0 false [] 0).fin = false ∧ (runDec 0 3 0 false [] 3).pads = 0#2 ∧
      (runDec 0 0 0 false [] 0).cnt = 0#2 ∧ (runDec 0 1 0 false [] 1).cnt = 1#2 ∧ (runDec 0 2 0 false [] 2).cnt = 2#2 ∧
      (runDec 0 3 0 false [] 3).cnt = 3#2 := by decide
theorem witness_PutDecodesAPadding :
    (runDec 0 2 0 false [] 2).fin = false ∧ (runDec 0 2 0 false [] 2).cnt = 2#2 ∧
      (runDec 0 2 0 false [] 2).pads = 0#2 ∧ (runDec 0 3 0 false [] 3).cnt = 3#2 ∧ (runDec 0 3 0 false [] 3).pads = 0#2 ∧
      (runDec 0 3 1 false [] 3).pads = 1#2 ∧ (runDec 0 3 1 false [] 3).state = .run ∧
      (runDec 0 3 1 false [] 3).dir = .decode := by decide
theorem witness_EndDecodeChecksTheLength :
    (stK 1 Engine.reset []).eng.state ≠ .run ∧ (runDec 0 3 0 false [] 3).state = .run ∧
      (runDec 0 3 0 false [] 3).dir = .decode ∧ (runDec 0 3 0 false [] 3).cnt ≠ 0#2 ∧ (runDec 0 0 0 false [] 4).cnt = 0#2 ∧
      (runDec 0 0 0 false [0, 0, 0] 4).obuf ≠ [] ∧
      ((stK 1 faultE []).present (.command (0x4#4 ++ 0xFF#8))).input = [.command 0x4FF#12] := by decide
theorem witness_AbtRaisesIoError :
    (runEnc 0 0 [] 0).state = .run ∧ faultE.state ≠ .run ∧
      ((stK 1 faultE []).present (.command (0x5#4 ++ 0x01#8))).input = [.command 0x501#12] := by decide
theorem witness_ClrClearsEveryRegister :
    faultE.state ≠ .run ∧ (runEnc 0 0 [] 0).state = .run ∧
      ((stK 1 faultE []).present (.command (0x6#4 ++ 0xFF#8))).input = [.command 0x6FF#12] := by decide
theorem witness_RefusalTable :
    WellFormed (.put 0#8) ∧ legalIn (.put 0#8) .idle = false ∧ legalIn (.put 0#8) .run = true ∧
      answers (exec (.put 0#8) (stK 1 (runEnc 0 0 [] 0) [])) (fun t => t.responses == [0x000#12]) := by decide
theorem witness_StateChangesOnlyAsListed :
    answers (exec .abt (stK 1 (runEnc 0 0 [] 0) [])) (fun t => t.eng.state == .fault) ∧
      answers (exec .end_ (stK 1 (runEnc 0 0 [] 0) [])) (fun t => t.eng.state == .done) := by decide
theorem witness_EveryFaultIsFaultEntry :
    answers (exec (.put 0x24#8) (stK 1 (runDec 0 0 0 false [] 4) [])) (fun t => t.eng.state == .fault) ∧
      (runDec 0 0 0 false [] 4).state ≠ .fault := by decide
theorem witness_FaultIsLeftOnlyByClrOrReset :
    (stK 1 faultE []).eng.state = .fault ∧
      answers (step ((stK 1 faultE []).present (.command 0x600#12))) (fun t => t.eng == Engine.reset) ∧
      answers (step ((stK 1 faultE []).present (.command 0x341#12))) (fun t => t.eng == faultE) := by decide
theorem witness_EncodeStreamsFailOnlyByIoError :
    answers (exec (.put 0x21#8) (stK 1 (runEnc 0x6C6F00 2 [] 5) [.fail])) (fun t => t.eng.state == .fault) ∧
      (runEnc 0x6C6F00 2 [] 5).state = .run ∧ (runEnc 0x6C6F00 2 [] 5).dir = .encode := by decide
theorem witness_WhenADecodeStreamRaisesEachError :
    (stK 1 (runDec 0 3 1 false [] 3) []).Inv ∧ (runDec 0 3 1 false [] 3).state = .run ∧
      (runDec 0 3 1 false [] 3).dir = .decode ∧
      answers (exec (.put 0x41#8) (stK 1 (runDec 0 3 1 false [] 3) [])) (fun t => t.eng.err == some .invalidPadding) ∧
      answers (exec (.put 0x24#8) (stK 1 (runDec 0 3 1 false [] 3) [])) (fun t => t.eng.err == some .invalidSymbol) ∧
      answers (exec .end_ (stK 1 (runDec 0 3 1 false [] 3) [])) (fun t => t.eng.err == some .invalidLength) :=
  ⟨inv_runDec_padded [], by decide, by decide, by decide, by decide, by decide⟩
theorem witness_IncntCountsAcceptedItems :
    answers (exec (.put 0#8) (stK 1 (runEnc 0 0 [] 0xFFFFFFFFFFFFFFFF) []))
      (fun t => t.responses == [0x000#12] && t.eng.incnt == 0#64) ∧
      answers (exec (.put 0#8) (stK 1 faultE [])) (fun t => t.responses == [0xF00#12] && t.eng.incnt == 6#64) ∧
      answers (exec .clr (stK 1 faultE [])) (fun t => t.eng.incnt == 0#64) := by decide
theorem witness_OutcntCountsAcceptedBursts :
    (stK 1 (runEnc 0 0 [] 0) [.ok]).Inv ∧
      answers (exec (.put 0#8) (stK 1 (runEnc 0 0 [] 0) [.ok])) (fun t => t.sink == []) :=
  ⟨inv_runEnc [.ok], by decide⟩
theorem witness_AtMostOneBurstPerCommand :
    answers (exec (.put 0#8) (stK 1 (runEnc 0 2 [] 2) [.ok])) (fun t => t.sinkAsked == 1) := by decide
theorem witness_TheSinkStreamIsNeverRetracted :
    answers (step ((stK 1 (runEnc 0 2 [] 2) [.ok]).present (.command 0x300#12))) (fun t => t.sink.length == 1) := by decide
theorem witness_NoStepChangesTheTables :
    answers (step ((stK 1 faultE []).present .reset)) (fun t => t.cfg == cfgK 1) := by decide +kernel
theorem witness_EveryCommandCompletesIfTheSinkAnswers :
    (stK 1 Engine.reset [.ok]).sinkReply ≠ .silent ∧
      exec (.put 0#8) (stK 1 (runEnc 0 2 [] 2) [.silent]) = .fault .sinkSilent ∧
      answers (exec (.put 0#8) (stK 1 (runEnc 0 2 [] 2) [.ok])) (fun t => t.sinkAsked == 1) :=
  ⟨by decide, rfl, by decide⟩
theorem witness_EndFlushesEverything :
    answers (exec .end_ (stK 1 (runEnc 0x6C6F00 2 [] 5) [.ok])) (fun t => t.responses == [0x000#12]) := by decide
/-- A group completes: one engine bursts, the other holds it back; and a clause that discards. -/
theorem witness_ChunkSizeDoesNotInfluenceTheTransform :
    (cfgK 1).alphabet = (cfgK 3).alphabet ∧
      (runEnc 0 2 [] 2).apartFromChunks = (runEnc 0 2 [0x41, 0x41, 0x41, 0x41] 2).apartFromChunks ∧
      (stK 1 (runEnc 0 2 [] 2) [.ok]).sinkReply = .ok ∧
      (stK 3 (runEnc 0 2 [0x41, 0x41, 0x41, 0x41] 2) [.ok]).sinkReply = .ok ∧
      answers (exec (.put 0#8) (stK 1 (runEnc 0 2 [] 2) [.ok])) (fun t => t.sink.length == 1 && t.eng.state == .run) ∧
      answers (exec (.put 0#8) (stK 3 (runEnc 0 2 [0x41, 0x41, 0x41, 0x41] 2) [.ok])) (fun t => t.sink == []) ∧
      answers (exec .abt (stK 1 (runEnc 0 2 [] 2) [.ok])) (fun t => t.eng.state == .fault) :=
  ⟨rfl, by decide, by decide, by decide, by decide, by decide, by decide⟩
theorem witness_StepKeepsTheInvariant :
    (stK 1 (runDec 0 0 0 false [] 0) []).Inv ∧
      answers (step (stK 1 (runDec 0 0 0 false [] 0) [])) (fun t => t.eng.state == .run) :=
  ⟨inv_runDec [], by decide⟩
theorem witness_ReachableStatesMeetTheInvariant : Reachable State.reset := Reachable.start [] [] 0
theorem witness_StepKeepsTheAccount :
    (stK 1 (runEnc 0 0 [] 0) []).Inv ∧ (stK 1 (runEnc 0 0 [] 0) []).eng.Account ∧
      (stK 1 (runEnc 0 0 [] 0) []).eng.incnt.toNat + 1 < 2 ^ 64 ∧
      answers (step ((stK 1 (runEnc 0 0 [] 0) []).present (.command 0x368#12))) (fun t => t.eng.incnt == 1#64) :=
  ⟨inv_runEnc [], ⟨fun _ _ => by decide, fun _ h => by simp [stK, runEnc, Engine.reset] at h⟩, by decide, by decide⟩
theorem witness_EncodedTextIsSymbolsThenPadding : ValidConfig (cfgK 1) := valid_cfg.1
theorem witness_DecodeOfEncodedBytes : ValidConfig (cfgK 1) := valid_cfg.1
theorem witness_DecodedLength : ValidConfig (cfgK 1) ∧ dec (cfgK 1) [0x41, 0x7E, 0x3D, 0x3D] = .ok [0x03] :=
  ⟨valid_cfg.1, by decide⟩
theorem witness_ExactlyWellFormedTextDecodes : ValidConfig (cfgK 1) := valid_cfg.1
theorem witness_DiscardedBitsAreIgnored :
    ValidConfig (cfgK 1) ∧ padSym ∉ [0x41#8, 0x41#8, 0x41#8, 0x42#8] ∧
      dec (cfgK 1) [0x41, 0x41, 0x41, 0x42] = .ok [0, 0, 1] ∧ indexOf (cfgK 1) 0x41#8 = some 0#6 ∧
      indexOf (cfgK 1) 0x50#8 = some 15#6 ∧ indexOf (cfgK 1) 0x44#8 = some 3#6 ∧
      (0#6).extractLsb' 2 4 = (3#6).extractLsb' 2 4 ∧ (0#6).extractLsb' 4 2 = (15#6).extractLsb' 4 2 :=
  ⟨valid_cfg.1, by decide, by decide, by decide, by decide, by decide, by decide, by decide⟩
theorem witness_TextWithABadCharacterIsRejected :
    classOf (cfgK 1) 0x24#8 = .bad ∧ ∀ y ∈ [0x41#8, 0x3D#8], classOf (cfgK 1) y ≠ .bad := by decide
/-- An idle engine with the given K, the words of a script presented and the sink replies settled. -/
def session (k : BitVec 16) (script : List Instr) (replies : List SinkReply) : State :=
  { stK k Engine.reset replies with input := commands script }

/-- One byte and a lookup. -/
theorem witness_EncodeSessionPutsOutTheEncoding : ∃ (s : State) (body : List Instr),
    s.Inv ∧ s.eng.state = .idle ∧ (∀ i ∈ body, isBody i = true) ∧ s.input = commands (.enc :: (body ++ [.end_])) ∧
      (∀ r ∈ s.sinkReplies, r = .ok) ∧ body.length + 2 ≤ s.sinkReplies.length :=
  ⟨session 1 (.enc :: ([.put 0x68#8, .idx 0x2B#8] ++ [.end_])) (List.replicate 4 .ok), [.put 0x68#8, .idx 0x2B#8],
    inv_reset 1 valid_cfg.1 _ _, rfl, by decide, rfl, by decide, by decide⟩

/-- The first burst fails, in the END. -/
theorem witness_EncodeSessionWithAFailingSink : ∃ (s : State) (body : List Instr) (j : Nat) (later : List SinkReply),
    s.Inv ∧ s.eng.state = .idle ∧ (∀ i ∈ body, isBody i = true) ∧ s.input = commands (.enc :: (body ++ [.end_])) ∧
      s.sinkReplies = List.replicate j .ok ++ .fail :: later ∧
      j * (4 * s.cfg.chunkGroups.toNat) < (enc s.cfg (items body)).length :=
  ⟨session 1 (.enc :: ([.put 0x68#8] ++ [.end_])) [.fail], [.put 0x68#8], 0, [], inv_reset 1 valid_cfg.1 _ _, rfl,
    by decide, rfl, rfl, by decide⟩

/-- The padded group `A~==`. -/
theorem witness_DecodeSessionOfWellFormedText : ∃ (s : State) (body : List Instr) (bytes : List Byte),
    s.Inv ∧ s.eng.state = .idle ∧ (∀ i ∈ body, isBody i = true) ∧ s.input = commands (.dec :: (body ++ [.end_])) ∧
      (∀ r ∈ s.sinkReplies, r = .ok) ∧ body.length + 2 ≤ s.sinkReplies.length ∧ dec s.cfg (items body) = .ok bytes :=
  ⟨session 1 (.dec :: ([.put 0x41#8, .put 0x7E#8, .put 0x3D#8, .put 0x3D#8] ++ [.end_])) (List.replicate 6 .ok),
    [.put 0x41#8, .put 0x7E#8, .put 0x3D#8, .put 0x3D#8], [0x03#8], inv_reset 1 valid_cfg.1 _ _, rfl, by decide, rfl,
    by decide, by decide, by decide⟩

/-- A padding character first, and a text that ends inside a group. -/
theorem witness_DecodeSessionOfMalformedText : ∀ ch ∈ [(0x3D#8, ErrKind.invalidPadding, 0), (0x41#8, .invalidLength, 1)],
    ∃ (s : State) (body : List Instr) (groups : Nat),
      s.Inv ∧ s.eng.state = .idle ∧ (∀ i ∈ body, isBody i = true) ∧ s.input = commands (.dec :: (body ++ [.end_])) ∧
      (∀ r ∈ s.sinkReplies, r = .ok) ∧ body.length + 2 ≤ s.sinkReplies.length ∧
      dec s.cfg (items body) = .err ch.2.1 ch.2.2 ∧
      groups = ch.2.2 / 4 - (if 4 ≤ ch.2.2 ∧ padAt (items body) (ch.2.2 - ch.2.2 % 4 - 1) then 1 else 0) := by
  intro ch hch
  refine ⟨session 1 (.dec :: ([.put ch.1] ++ [.end_])) (List.replicate 3 .ok), [.put ch.1], _, inv_reset 1 valid_cfg.1 _ _,
    rfl, ?_, rfl, ?_, ?_, ?_, rfl⟩
  · simp [isBody]
  · exact fun r h => List.eq_of_mem_replicate h
  · exact Nat.le_refl 3
  · simp only [List.mem_cons, List.not_mem_nil, or_false] at hch
    obtain rfl | rfl := hch <;> decide

/-- What `answers` says, as the existence of the next state. -/
theorem next_of_answers {r : Result} {p : State → Bool} (h : answers r p = true) : ∃ t, r = .next t ∧ p t = true := by
  cases r with
  | next t => exact ⟨t, rfl, h⟩
  | fault f => simp [answers] at h
  | refused r => simp [answers] at h

/-- The byte of `h` and its encoding `aA==`, with another K at the decoder. -/
theorem witness_EncodeThenDecodeGivesTheBytesBack : ∃ (s₁ s₂ t₁ : State) (bytes text : List Byte),
    s₁.Inv ∧ s₂.Inv ∧ s₁.eng.state = .idle ∧ s₂.eng.state = .idle ∧ s₁.cfg.alphabet = s₂.cfg.alphabet ∧
      s₁.input = commands (encodeScript bytes) ∧ (∀ r ∈ s₁.sinkReplies, r = .ok) ∧
      bytes.length + 2 ≤ s₁.sinkReplies.length ∧ runSteps (bytes.length + 2) s₁ = .next t₁ ∧
      t₁.sink.flatten = s₁.sink.flatten ++ text ∧ s₂.input = commands (decodeScript text) ∧
      (∀ r ∈ s₂.sinkReplies, r = .ok) ∧ text.length + 2 ≤ s₂.sinkReplies.length := by
  have h : answers (runSteps 3 (session 1 (encodeScript [0x68#8]) (List.replicate 3 .ok)))
      (fun t => t.sink.flatten == [0x61, 0x41, 0x3D, 0x3D]) = true := by decide
  obtain ⟨t, ht, hs⟩ := next_of_answers h
  exact ⟨session 1 (encodeScript [0x68#8]) (List.replicate 3 .ok),
    session 2 (decodeScript [0x61, 0x41, 0x3D, 0x3D]) (List.replicate 6 .ok), t, [0x68#8], [0x61, 0x41, 0x3D, 0x3D],
    inv_reset 1 valid_cfg.1 _ _, inv_reset 2 (by decide +kernel) _ _, rfl, rfl, rfl, rfl, by decide, by decide, ht,
    by simpa [session, stK] using hs, rfl, by decide, by decide⟩

end Sys2Proof.Tests
end

section
/-! The fields of the status port (10_state.md R33 to R35): one lemma per field of SR0 and SR1, each reading its operand
out of the concatenation that builds the register, and the statement O12 assembled from them. -/
namespace Sys2Proof.Proofs.StatusPort

open Sys2Proof Sys2Proof.Machine BitVec

variable (s : State)

/-! ### SR0 STATUS -/

@[simp] theorem sr0_state_field : (sr0 s).extractLsb' 0 2 = s.eng.state.code :=
  extractLsb'_append_eq_right

@[simp] theorem sr0_dir_field : (sr0 s).extractLsb' 2 1 = s.eng.dir.code := by
  rw [sr0, extractLsb'_append_eq_of_le (Nat.le_refl 2)]
  exact extractLsb'_append_eq_right

theorem sr0_fin_bit : (sr0 s).getLsbD 3 = s.eng.fin := by
  rw [sr0, getLsbD_append, getLsbD_append, getLsbD_append]
  simp

/-- ERR is the top operand, above the four bits of FIN, DIR and STATE. -/
@[simp] theorem sr0_err_field : (sr0 s).extractLsb' 4 4 = errCode s.eng.err := by
  rw [sr0, extractLsb'_append_eq_of_le (by decide), extractLsb'_append_eq_of_le (by decide)]
  exact extractLsb'_append_eq_left

/-! ### SR1 CFG -/

@[simp] theorem sr1_chunkGroups_field : (sr1 s).extractLsb' 0 16 = s.cfg.chunkGroups :=
  extractLsb'_append_eq_right

theorem sr1_ignWs_bit : (sr1 s).getLsbD 16 = false := by
  rw [sr1, getLsbD_append, getLsbD_append]
  simp [ignWs]

theorem sr1_acceptUnpadded_bit : (sr1 s).getLsbD 17 = false := by
  rw [sr1, getLsbD_append, getLsbD_append, getLsbD_append]
  simp [acceptUnpadded]

/-- The reserved bits are the top operand, above UNPADDED, IGN_WS and K. -/
@[simp] theorem sr1_reserved_field : (sr1 s).extractLsb' 18 14 = 0#14 := by
  rw [sr1, extractLsb'_append_eq_of_le (by decide), extractLsb'_append_eq_of_le (by decide)]
  exact extractLsb'_append_eq_left

end Sys2Proof.Proofs.StatusPort
end

section
namespace Sys2Proof.Proofs

open Sys2Proof.Proofs.StatusPort

/-- Settles O12: SR0 and SR1 field by field, SR2 to SR4 by definition. -/
theorem statusPortFields : Obligations.StatusPortFields := fun s =>
  ⟨sr0_state_field s, sr0_dir_field s, sr0_fin_bit s, sr0_err_field s, sr1_chunkGroups_field s, sr1_ignWs_bit s,
    sr1_acceptUnpadded_bit s, sr1_reserved_field s, rfl, rfl, rfl⟩

end Sys2Proof.Proofs
end

section
/-! The two lookup tables against each other (10_state.md R17, R18; 30_encoding.md R77): what DEC_LUT holds at a symbol and
at an octet that is none, and the statement O15 assembled from them. -/
namespace Sys2Proof.Proofs.LookupTables

open Sys2Proof Sys2Proof.Machine

variable {c : Config} {x : Byte}

/-- ENC_LUT lists the alphabet. -/
theorem mem_alphabet_iff_exists_encLut : x ∈ c.alphabet.toList ↔ ∃ i, encLut c i = x := by
  rw [Vector.mem_toList_iff, Vector.mem_iff_getElem]
  constructor
  · rintro ⟨k, hk, rfl⟩
    exact ⟨BitVec.ofFin ⟨k, hk⟩, rfl⟩
  · rintro ⟨i, rfl⟩
    exact ⟨i.toNat, i.isLt, rfl⟩

/-- DEC_LUT inverts ENC_LUT: in an alphabet without repetition the first entry that equals the symbol of `i` is entry
`i` itself. -/
theorem decLut_encLut (hnd : c.alphabet.toList.Nodup) (i : Index) : decLut c (encLut c i) = 0#2 ++ i := by
  have hi : i.toNat < c.alphabet.toList.length := by simpa using i.isLt
  have hfind : c.alphabet.toList.findIdx? (fun y => y == encLut c i) = some i.toNat := by
    refine List.findIdx?_eq_some_iff_getElem.mpr ⟨hi, beq_self_eq_true _, fun j hj heq => ?_⟩
    exact absurd (hnd.getElem_inj_iff.mp (beq_iff_eq.mp heq)) (Nat.ne_of_lt hj)
  rw [decLut, hfind]
  exact (BitVec.ofNat_toNat 8 i).trans (BitVec.setWidth_eq_append (by decide))

/-- DEC_LUT holds the NIA bit alone at every octet outside the alphabet. -/
theorem decLut_of_not_mem (h : x ∉ c.alphabet.toList) : decLut c x = 0x80#8 := by
  have hfind : c.alphabet.toList.findIdx? (fun y => y == x) = none :=
    List.findIdx?_eq_none_iff.mpr fun y hy => beq_false_of_ne fun hyx => h (hyx ▸ hy)
  rw [decLut, hfind]

end Sys2Proof.Proofs.LookupTables
end

section
namespace Sys2Proof.Proofs

open Sys2Proof.Machine Sys2Proof.Proofs.LookupTables

/-- Settles O15: an octet is a symbol, whose entry is its index, or none, whose entry is 0x80; PAD is none. -/
theorem decLutEntryFormat : Obligations.DecLutEntryFormat := by
  intro c x ⟨hnd, hpad, _⟩
  refine ⟨?_, decLut_of_not_mem hpad⟩
  by_cases hx : x ∈ c.alphabet.toList
  · obtain ⟨i, rfl⟩ := mem_alphabet_iff_exists_encLut.mp hx
    exact .inl ⟨i, decLut_encLut hnd i, rfl⟩
  · exact .inr ⟨decLut_of_not_mem hx, fun i hi => hx (mem_alphabet_iff_exists_encLut.mpr ⟨i, hi⟩)⟩

end Sys2Proof.Proofs
end

section
/-! The lookup commands SYM and IDX (40_alphabet_lut.md R85, R86): what each answers in each case of its pseudocode, why a
symbol is never PAD, and the statements O17 and O18 assembled from them. -/
namespace Sys2Proof.Proofs.LookupCommands

open Sys2Proof Sys2Proof.Machine Sys2Proof.Proofs.LookupTables

/-! ### One response, and nothing else changed -/

theorem respond_eq_answer (code : RspCode) (data : Byte) (s : State) :
    respond code data s = s.answer (rspWord code data) := rfl

theorem refuse_eq_answer (s : State) : refuse s = s.answer 0xF00#12 := by
  rw [refuse, respond_eq_answer, rspWord_refused_zero]

/-! ### SYM -/

theorem exec_sym_of_index {arg : Byte} (h : arg.extractLsb' 6 2 = 0#2) (s : State) :
    exec (.sym arg) s = .next (s.answer (0x0#4 ++ encLut s.cfg (arg.extractLsb' 0 6))) :=
  if_neg (not_not_intro h)

theorem exec_sym_of_not_index {arg : Byte} (h : arg.extractLsb' 6 2 ≠ 0#2) (s : State) :
    exec (.sym arg) s = .next (s.answer 0xF00#12) := by
  rw [← refuse_eq_answer]
  exact if_pos h

/-- Alphabet closure: ENC_LUT holds members of the alphabet only, and PAD is none (10_state.md R20 (b)). -/
theorem encLut_ne_padSym {c : Config} (hpad : padSym ∉ c.alphabet.toList) (i : Index) : encLut c i ≠ padSym :=
  fun hi => hpad (mem_alphabet_iff_exists_encLut.mpr ⟨i, hi⟩)

/-! ### IDX -/

theorem exec_idx_of_nia {char : Byte} {s : State} (h : nia (decLut s.cfg char) = true) :
    exec (.idx char) s = .next (s.answer 0x180#12) := by
  have hrsp : rspWord (.error .invalidSymbol) 0x80#8 = 0x180#12 := by decide
  rw [← hrsp, ← respond_eq_answer]
  exact if_pos h

theorem exec_idx_of_not_nia {char : Byte} {s : State} (h : nia (decLut s.cfg char) = false) :
    exec (.idx char) s = .next (s.answer (0x0#4 ++ decLut s.cfg char)) :=
  if_neg (Bool.eq_false_iff.mp h)

end Sys2Proof.Proofs.LookupCommands
end

section
namespace Sys2Proof.Proofs

open Sys2Proof.Machine Sys2Proof.Proofs.LookupCommands

/-- Settles O17: the two branches of R85, and alphabet closure for the octet answered. -/
theorem symAnswersTheSymbol : Obligations.SymAnswersTheSymbol := fun s _ =>
  ⟨fun h => ⟨exec_sym_of_index h s, fun ⟨_, hpad, _⟩ => encLut_ne_padSym hpad _⟩, fun h => exec_sym_of_not_index h s⟩

/-- Settles O18: the two branches of R86, by the NIA bit of the entry. -/
theorem idxAnswersTheIndex : Obligations.IdxAnswersTheIndex := fun _ _ => ⟨exec_idx_of_nia, exec_idx_of_not_nia⟩

end Sys2Proof.Proofs
end

section
/-! A word whose reserved argument is not zero (30_encoding.md R66, R68; 43_control.md R107): it decodes to no command and
its step is the refusal F00. -/
namespace Sys2Proof.Proofs.ReservedArgument

open Sys2Proof Sys2Proof.Machine Sys2Proof.Proofs.LookupCommands

variable {op : BitVec 4} {arg : Byte} {s : State} {rest : List HostEvent}

@[simp] theorem opField_append (op : BitVec 4) (arg : Byte) : opField (op ++ arg) = op :=
  BitVec.extractLsb'_append_eq_left

@[simp] theorem argField_append (op : BitVec 4) (arg : Byte) : argField (op ++ arg) = arg :=
  BitVec.extractLsb'_append_eq_right

theorem withoutArg_of_ne_zero (i : Instr) (harg : arg ≠ 0#8) : withoutArg i arg = .reserved .argument :=
  if_neg harg

/-- The second family of R68: the five operation codes without an operand. -/
theorem decode_of_arg_ne_zero (hop : op ∈ [0x1#4, 0x2#4, 0x4#4, 0x5#4, 0x6#4]) (harg : arg ≠ 0#8) :
    decode (op ++ arg) = .reserved .argument := by
  simp only [decode, opField_append, argField_append]
  simp only [List.mem_cons, List.not_mem_nil, or_false] at hop
  obtain rfl | rfl | rfl | rfl | rfl := hop <;> exact withoutArg_of_ne_zero _ harg

theorem step_of_reserved {w : CmdWord} {r : Reserved} (hin : s.input = .command w :: rest)
    (hw : decode w = .reserved r) : step s = .next ({ s with input := rest }.answer 0xF00#12) := by
  rw [← refuse_eq_answer]
  simp only [step, hin, hw, executeReserved]

theorem step_of_arg_ne_zero (hop : op ∈ [0x1#4, 0x2#4, 0x4#4, 0x5#4, 0x6#4]) (harg : arg ≠ 0#8)
    (hin : s.input = .command (op ++ arg) :: rest) : step s = .next ({ s with input := rest }.answer 0xF00#12) :=
  step_of_reserved hin (decode_of_arg_ne_zero hop harg)

end Sys2Proof.Proofs.ReservedArgument
end

section
/-! The chunk rule at the end of a command (20_memory.md R54): what a command that reaches it with given registers answers,
and why it can enter FAULT in one way only. -/
namespace Sys2Proof.Proofs.ChunkRule

open Sys2Proof Sys2Proof.Machine Sys2Proof.Proofs.LookupCommands

variable {force : Bool} {s t : State} {e : Engine} {k : State → State}

theorem respond_ok_eq_answer (s : State) : respond .ok 0#8 s = s.answer 0x000#12 := by
  rw [respond_eq_answer, rspWord_ok_zero]

theorem accepted_eq_answer (s : State) : accepted s = { s with eng := countItem s.eng }.answer 0x000#12 :=
  respond_ok_eq_answer _

/-- A command that reaches `Flush` with the registers `e` ends as the chunk rule says. A `Fail` discards what the command
did to the registers before, so `e` may differ from `s.eng` in nothing that fault entry keeps (`hfault`). -/
theorem endsWithFlush_finish {due : Prop} {rest : Engine → Engine}
    (hk : ∀ u, k u = { u with eng := rest u.eng }.answer 0x000#12)
    (hfault : e.faulted .ioError = s.eng.faulted .ioError) (hdue : due ↔ flushDue force (s.setEng e) = true) :
    EndsWithFlush ((flush force (s.setEng e)).finish k) s due e rest := by
  refine ⟨fun hd => ?_, fun hd hr => ?_, fun hd hr => ?_⟩
  · rw [flush_of_not_due (Bool.eq_false_iff.mpr fun h => hd (hdue.mpr h)), Flushed.finish, hk]
    rfl
  · rw [flush_of_ok (hdue.mp hd) hr, Flushed.finish, hk]
    rfl
  · have hraise : raise .ioError (s.setEng e).sinkReplied = raise .ioError s.sinkReplied :=
      congrArg (fun f => respond (.error .ioError) 0#8 (s.sinkReplied.setEng f)) hfault
    rw [flush_of_fail (hdue.mp hd) hr, Flushed.finish, hraise]

/-- A command whose own registers are not those of FAULT enters FAULT at the chunk rule only by IOError, from a `Fail`. -/
theorem ioError_of_finish_fault (h : (flush force (s.setEng e)).finish k = .next t) (ht : t.eng.state = .fault)
    (he : e.state ≠ .fault) (hk : ∀ u, u.eng.state ≠ .fault → (k u).eng.state ≠ .fault) :
    t.eng.err = some .ioError ∧ s.sinkReply = .fail := by
  obtain ⟨-, rfl⟩ | ⟨-, -, rfl⟩ | ⟨-, hr, rfl⟩ := flush_setEng_next h
  · exact absurd ht (hk _ he)
  · exact absurd ht (hk (flushed s e) he)
  · exact ⟨rfl, hr⟩

end Sys2Proof.Proofs.ChunkRule
end

section
/-! The commands of an encode stream (41_encode.md R89 to R91): an equation per case of ENC, PUT and END, what puts an
encode stream into FAULT (R94), and the statements O35, O19, O21 and O22 assembled from them. -/
namespace Sys2Proof.Proofs.EncodeCommands

open Sys2Proof Sys2Proof.Machine Sys2Proof.Proofs.LookupCommands Sys2Proof.Proofs.ChunkRule

variable {s t : State} {b : Byte}

/-! ### ENC -/

theorem exec_enc_of_idle (h : s.eng.state = .idle) :
    exec .enc s = .next ({ s with eng := { s.eng with state := .run, dir := .encode } }.answer 0x000#12) := by
  rw [← respond_ok_eq_answer]
  exact if_pos h

theorem exec_enc_of_not_idle (h : s.eng.state ≠ .idle) : exec .enc s = .next (s.answer 0xF00#12) := by
  rw [← refuse_eq_answer]
  exact if_neg h

/-! ### PUT -/

theorem exec_put_of_not_run (h : s.eng.state ≠ .run) : exec (.put b) s = .next (s.answer 0xF00#12) := by
  rw [← refuse_eq_answer]
  exact if_neg h

theorem exec_put_of_encode (hs : s.eng.state = .run) (hd : s.eng.dir = .encode) :
    exec (.put b) s = putEncode b s := by
  simp only [exec, execPut, hs, hd, if_true]

/-- The group is not complete yet. -/
theorem putEncode_of_cnt_lt_two (h : s.eng.cnt < 2#2) :
    putEncode b s = .next ({ s with eng := countItem { s.eng with
      acc := placeByte s.eng.cnt b s.eng.acc, cnt := s.eng.cnt + 1#2 } }.answer 0x000#12) := by
  rw [putEncode, if_pos h, accepted_eq_answer]
  rfl

/-- The group is complete, and the chunk rule follows. -/
theorem putEncode_of_not_cnt_lt_two (h : ¬ s.eng.cnt < 2#2) :
    putEncode b s = (flush false (s.setEng (encClosed b s))).finish accepted :=
  if_neg h

/-- In encode a PUT is due to burst when OBUF with the group's four characters holds a chunk. -/
theorem flushDue_encClosed_iff (hd : s.eng.dir = .encode) :
    flushDue false (s.setEng (encClosed b s)) = true ↔
      4 * s.cfg.chunkGroups.toNat ≤ (encClosed b s).obuf.length := by
  have hpos : 0 < (encClosed b s).obuf.length := by simp [encClosed]
  have hcap : ocap s.cfg (encClosed b s).dir = 4 * s.cfg.chunkGroups.toNat := congrArg (ocap s.cfg) hd
  simp only [flushDue_iff, setEng_eng, setEng_cfg, hpos, hcap, Bool.false_eq_true, false_or, true_and]

theorem endsWithFlush_putEncode (hd : s.eng.dir = .encode) (h : ¬ s.eng.cnt < 2#2) :
    EndsWithFlush (putEncode b s) s (4 * s.cfg.chunkGroups.toNat ≤ (encClosed b s).obuf.length) (encClosed b s)
      countItem := by
  rw [putEncode_of_not_cnt_lt_two h]
  exact endsWithFlush_finish accepted_eq_answer rfl (flushDue_encClosed_iff hd).symm

/-! ### END -/

theorem exec_end_of_not_run (h : s.eng.state ≠ .run) : exec .end_ s = .next (s.answer 0xF00#12) := by
  rw [← refuse_eq_answer]
  exact if_neg h

theorem exec_end_of_encode (hs : s.eng.state = .run) (hd : s.eng.dir = .encode) :
    exec .end_ s =
      (flush true (s.setEng (encTailed s))).finish fun u => respond .ok 0#8 (u.setEng (encEnded u.eng)) := by
  simp only [exec, execEnd, hs, hd, if_true]
  rfl

/-- The forced flush is due when OBUF holds anything. -/
theorem flushDue_true_iff (s : State) : flushDue true s = true ↔ s.eng.obuf ≠ [] := by
  simp only [flushDue_iff, true_or, and_true, List.length_pos_iff]

theorem endsWithFlush_end (hs : s.eng.state = .run) (hd : s.eng.dir = .encode) :
    EndsWithFlush (exec .end_ s) s ((encTailed s).obuf ≠ []) (encTailed s) encEnded := by
  rw [exec_end_of_encode hs hd]
  exact endsWithFlush_finish (fun _ => respond_ok_eq_answer _) rfl (flushDue_true_iff (s.setEng (encTailed s))).symm

/-! ### What puts an encode stream into FAULT -/

/-- PUT, in either part of R90. -/
theorem ioError_of_putEncode_fault (hs : s.eng.state = .run) (h : putEncode b s = .next t)
    (ht : t.eng.state = .fault) : t.eng.err = some .ioError ∧ s.sinkReply = .fail := by
  have hrun : s.eng.state ≠ .fault := by simp [hs]
  obtain ⟨-, rfl⟩ | ⟨-, h⟩ := putEncode_next h
  · exact absurd ht hrun
  · exact ioError_of_finish_fault h ht hrun fun _ hu => hu

theorem ioError_of_end_fault (hs : s.eng.state = .run) (hd : s.eng.dir = .encode) (h : exec .end_ s = .next t)
    (ht : t.eng.state = .fault) : t.eng.err = some .ioError ∧ s.sinkReply = .fail := by
  rw [exec_end_of_encode hs hd] at h
  have hrun : s.eng.state ≠ .fault := by simp [hs]
  exact ioError_of_finish_fault h ht hrun fun _ _ => by simp [encEnded]

/-- In RUN the commands that open or clear a stream are refused and a lookup only answers, so three commands remain that
can enter FAULT. -/
theorem put_or_end_or_abt_of_fault {i : Instr} (hs : s.eng.state = .run) (h : exec i s = .next t)
    (ht : t.eng.state = .fault) : (∃ x, i = .put x) ∨ i = .end_ ∨ i = .abt := by
  have hrun : s.eng.state ≠ .fault := by simp [hs]
  cases i with
  | put x => exact .inl ⟨x, rfl⟩
  | end_ => exact .inr (.inl rfl)
  | abt => exact .inr (.inr rfl)
  | enc =>
    obtain ⟨hidle, -⟩ | ⟨-, rfl⟩ := execEnc_next h
    · simp [hs] at hidle
    · exact absurd ht hrun
  | dec =>
    obtain ⟨hidle, -⟩ | ⟨-, rfl⟩ := execDec_next h
    · simp [hs] at hidle
    · exact absurd ht hrun
  | clr =>
    obtain ⟨-, rfl⟩ | ⟨hnot, -⟩ := execClr_next h
    · exact absurd ht hrun
    · exact absurd hs hnot
  | sym arg =>
    obtain ⟨_, _, rfl⟩ := execSym_next h
    exact absurd ht hrun
  | idx char =>
    obtain ⟨_, _, rfl⟩ := execIdx_next h
    exact absurd ht hrun

end Sys2Proof.Proofs.EncodeCommands
end

section
namespace Sys2Proof.Proofs

open Sys2Proof Sys2Proof.Machine Sys2Proof.Proofs.ReservedArgument Sys2Proof.Proofs.EncodeCommands

/-- Settles O35: PUT and END enter FAULT only at the chunk rule, ABT always, and no other command does. -/
theorem encodeStreamsFailOnlyByIoError : Obligations.EncodeStreamsFailOnlyByIoError := by
  intro s t i hs hd h ht
  obtain ⟨x, rfl⟩ | rfl | rfl := put_or_end_or_abt_of_fault hs h ht
  · rw [exec_put_of_encode hs hd] at h
    exact (ioError_of_putEncode_fault hs h ht).imp_right .inl
  · exact (ioError_of_end_fault hs hd h ht).imp_right .inl
  · obtain ⟨-, rfl⟩ | ⟨hnot, -⟩ := execAbt_next h
    · exact ⟨rfl, .inr rfl⟩
    · exact absurd hs hnot

/-- Settles O19: the two branches of R89, and the refusal of its word with an argument. -/
theorem encOpensAnEncodeStream : Obligations.EncOpensAnEncodeStream := fun _ =>
  ⟨exec_enc_of_idle, exec_enc_of_not_idle, fun _ _ harg hin => step_of_arg_ne_zero (by decide) harg hin⟩

/-- Settles O21: R90 at each position of the group, the third through the chunk rule. -/
theorem putEncodesAByte : Obligations.PutEncodesAByte := by
  intro s b
  refine ⟨exec_put_of_not_run, fun hs hd => ?_⟩
  rw [exec_put_of_encode hs hd]
  refine ⟨fun hc => ?_, fun hc => ?_, ?_⟩
  · rw [putEncode_of_cnt_lt_two (by simp [hc]), hc]
    rfl
  · rw [putEncode_of_cnt_lt_two (by simp [hc]), hc]
    rfl
  · rintro hc g rfl e rfl
    have hclosed := endsWithFlush_putEncode (b := b) hd (by simp [hc])
    rw [encClosed, hc] at hclosed
    exact hclosed

/-- Settles O22: the three tails of R91, each through the forced flush. -/
theorem endEncodesTheTail : Obligations.EndEncodesTheTail := by
  refine fun s => ⟨exec_end_of_not_run, fun _ _ harg hin => step_of_arg_ne_zero (by decide) harg hin, ?_⟩
  intro hs hd tail htail
  have htailed : encTail s.cfg s.eng.cnt s.eng.acc = tail := by
    obtain ⟨hc, rfl⟩ | ⟨hc, rfl⟩ | ⟨hc, rfl⟩ := htail <;> rw [hc] <;> rfl
  rw [← htailed]
  exact endsWithFlush_end hs hd

end Sys2Proof.Proofs
end

section
/-! The commands that open and end a decode stream (42_decode.md R97, R99): an equation per case of DEC and of END in the
decode direction, and the statements O20 and O26 assembled from them. -/
namespace Sys2Proof.Proofs.DecodeCommands

open Sys2Proof Sys2Proof.Machine Sys2Proof.Proofs.LookupCommands Sys2Proof.Proofs.ChunkRule
  Sys2Proof.Proofs.EncodeCommands

variable {s : State}

/-! ### DEC -/

theorem exec_dec_of_idle (h : s.eng.state = .idle) :
    exec .dec s = .next ({ s with eng := { s.eng with state := .run, dir := .decode } }.answer 0x000#12) := by
  rw [← respond_ok_eq_answer]
  exact if_pos h

theorem exec_dec_of_not_idle (h : s.eng.state ≠ .idle) : exec .dec s = .next (s.answer 0xF00#12) := by
  rw [← refuse_eq_answer]
  exact if_neg h

/-! ### END -/

theorem exec_end_of_decode (hs : s.eng.state = .run) (hd : s.eng.dir = .decode) : exec .end_ s = endDecode s := by
  simp only [exec, execEnd, hs, hd, if_true]

/-- The text stops inside a group. -/
theorem endDecode_of_cnt_ne_zero (h : s.eng.cnt ≠ 0#2) : endDecode s = .next (raise .invalidLength s) :=
  if_pos h

/-- The text stops at a group boundary, and the forced flush follows. -/
theorem endDecode_of_cnt_eq_zero (h : s.eng.cnt = 0#2) :
    endDecode s =
      (flush true (s.setEng s.eng)).finish fun u => respond .ok 0#8 (u.setEng (decEnded u.eng)) :=
  if_neg (not_not_intro h)

theorem endsWithFlush_endDecode (h : s.eng.cnt = 0#2) :
    EndsWithFlush (endDecode s) s (s.eng.obuf ≠ []) s.eng decEnded := by
  rw [endDecode_of_cnt_eq_zero h]
  exact endsWithFlush_finish (fun _ => respond_ok_eq_answer _) rfl (flushDue_true_iff s).symm

end Sys2Proof.Proofs.DecodeCommands
end

section
namespace Sys2Proof.Proofs

open Sys2Proof Sys2Proof.Machine Sys2Proof.Proofs.ReservedArgument Sys2Proof.Proofs.EncodeCommands
  Sys2Proof.Proofs.DecodeCommands

/-- Settles O20: the two branches of R97, and the refusal of its word with an argument. -/
theorem decOpensADecodeStream : Obligations.DecOpensADecodeStream := fun _ =>
  ⟨exec_dec_of_idle, exec_dec_of_not_idle, fun _ _ harg hin => step_of_arg_ne_zero (by decide) harg hin⟩

/-- Settles O26: the two branches of R99 by CNT, the second through the forced flush, and both refusals. -/
theorem endDecodeChecksTheLength : Obligations.EndDecodeChecksTheLength := by
  refine fun s => ⟨exec_end_of_not_run, fun _ _ harg hin => step_of_arg_ne_zero (by decide) harg hin, fun hs hd => ?_⟩
  rw [exec_end_of_decode hs hd]
  exact ⟨endDecode_of_cnt_ne_zero, endsWithFlush_endDecode⟩

end Sys2Proof.Proofs
end

section
/-! Words and rows (30_encoding.md R67, R70): a word that decodes to a command is that command's own word and so selects
its row; a word that selects no row is therefore reserved, and the statement O7 (43_control.md R107) follows. -/
namespace Sys2Proof.Proofs.WordRows

open Sys2Proof Sys2Proof.Machine Sys2Proof.Proofs.ReservedArgument

variable {w : CmdWord} {i j : Instr} {arg : Byte}

theorem opField_append_argField (w : CmdWord) : opField w ++ argField w = w :=
  BitVec.extractLsb'_append_extractLsb'_eq_extractLsb' (by decide) |>.trans BitVec.extractLsb'_eq_self

theorem withoutArg_eq_command : withoutArg j arg = .command i ↔ arg = 0#8 ∧ i = j := by
  unfold withoutArg
  split <;> simp [*, eq_comm]

theorem encode_eq_of_fields (hop : (opField w).toNat = (opcode i).toNat) (harg : argField w = argument i) :
    encode i = w := by
  rw [encode, ← BitVec.eq_of_toNat_eq hop, ← harg, opField_append_argField]

/-- The five commands without an operand (R66). -/
theorem encode_of_withoutArg (h : withoutArg j (argField w) = .command i) (hop : (opField w).toNat = (opcode j).toNat)
    (hj : argument j = 0#8) (hwf : WellFormed j) : encode i = w ∧ WellFormed i := by
  obtain ⟨harg, rfl⟩ := withoutArg_eq_command.mp h
  exact ⟨encode_eq_of_fields hop (harg.trans hj.symm), hwf⟩

/-- A word that decodes to a command is that command's own word (R69), by the arms of the decoder. -/
theorem encode_of_decode (h : decode w = .command i) : encode i = w ∧ WellFormed i := by
  unfold decode at h
  split at h
  case h_1 hop | h_2 hop | h_4 hop | h_5 hop | h_6 hop => exact encode_of_withoutArg h hop rfl rfl
  case h_3 hop | h_8 hop =>
    obtain rfl := Decoded.command.inj h
    exact ⟨encode_eq_of_fields hop rfl, rfl⟩
  case h_7 hop =>
    split at h
    case isTrue hindex =>
      obtain rfl := Decoded.command.inj h
      exact ⟨encode_eq_of_fields hop rfl, beq_iff_eq.mpr hindex⟩
    case isFalse => contradiction
  case h_9 => contradiction

theorem selectsRow_encode (hi : WellFormed i) : selectsRow (encode i) (tableRow i) = true := by
  cases i with
  | enc => exact Laws.InOwnRow.enc hi
  | dec => exact Laws.InOwnRow.dec hi
  | put item => exact Laws.InOwnRow.put item hi
  | end_ => exact Laws.InOwnRow.end_ hi
  | abt => exact Laws.InOwnRow.abt hi
  | clr => exact Laws.InOwnRow.clr hi
  | sym arg => exact Laws.InOwnRow.sym arg hi
  | idx char => exact Laws.InOwnRow.idx char hi

/-- A command's row does not depend on its operand. -/
theorem tableRow_mem_tableRows (i : Instr) : tableRow i ∈ tableRows := by
  cases i <;> simp [tableRows, tableRow]

theorem decode_of_selects_no_row (hw : ∀ row ∈ tableRows, selectsRow w row = false) :
    ∃ r, decode w = .reserved r := by
  cases hd : decode w with
  | reserved r => exact ⟨r, rfl⟩
  | command i =>
    obtain ⟨rfl, hi⟩ := encode_of_decode hd
    have hrow := hw (tableRow i) (tableRow_mem_tableRows i)
    rw [selectsRow_encode hi] at hrow
    contradiction

end Sys2Proof.Proofs.WordRows
end

section
/-! The stream control commands (43_control.md R105, R106): an equation per case of ABT and of CLR, and the statements
O27 and O28 assembled from them. -/
namespace Sys2Proof.Proofs.ControlCommands

open Sys2Proof Sys2Proof.Machine Sys2Proof.Proofs.LookupCommands Sys2Proof.Proofs.ChunkRule

variable {s : State}

/-! ### ABT -/

theorem raise_ioError_eq_answer (s : State) :
    raise .ioError s = { s with eng := s.eng.faulted .ioError }.answer 0x400#12 := by
  have hrsp : rspWord (.error .ioError) 0#8 = 0x400#12 := by decide
  rw [raise, respond_eq_answer, hrsp]
  rfl

theorem exec_abt_of_run (h : s.eng.state = .run) :
    exec .abt s = .next ({ s with eng := s.eng.faulted .ioError }.answer 0x400#12) := by
  rw [← raise_ioError_eq_answer]
  exact if_pos h

theorem exec_abt_of_not_run (h : s.eng.state ≠ .run) : exec .abt s = .next (s.answer 0xF00#12) := by
  rw [← refuse_eq_answer]
  exact if_neg h

/-! ### CLR -/

theorem exec_clr_of_not_run (h : s.eng.state ≠ .run) :
    exec .clr s = .next ({ s with eng := Engine.reset }.answer 0x000#12) := by
  rw [← respond_ok_eq_answer]
  exact if_neg h

theorem exec_clr_of_run (h : s.eng.state = .run) : exec .clr s = .next (s.answer 0xF00#12) := by
  rw [← refuse_eq_answer]
  exact if_pos h

end Sys2Proof.Proofs.ControlCommands
end

section
namespace Sys2Proof.Proofs

open Sys2Proof Sys2Proof.Machine Sys2Proof.Proofs.ReservedArgument Sys2Proof.Proofs.WordRows
  Sys2Proof.Proofs.ControlCommands

/-- Settles O7: a word that selects no row decodes to a reserved word, and the step of one is the refusal. -/
theorem reservedWordIsRefused : Obligations.ReservedWordIsRefused := by
  intro s rest w hin hw
  obtain ⟨r, hr⟩ := decode_of_selects_no_row hw
  exact step_of_reserved hin hr

/-- Settles O27: the two branches of R105, fault entry register by register, and the refusal of its word with an
argument. -/
theorem abtRaisesIoError : Obligations.AbtRaisesIoError := fun _ =>
  ⟨exec_abt_of_run, exec_abt_of_not_run, fun _ _ harg hin => step_of_arg_ne_zero (by decide) harg hin⟩

/-- Settles O28: the two branches of R106, the reset values of R39, and the refusal of its word with an argument. -/
theorem clrClearsEveryRegister : Obligations.ClrClearsEveryRegister := fun _ =>
  ⟨exec_clr_of_not_run, exec_clr_of_run, fun _ _ harg hin => step_of_arg_ne_zero (by decide) harg hin⟩

end Sys2Proof.Proofs
end

section
/-! Fault entry as the only way into FAULT (60_exceptions.md R119): what a command wrote before its `raise` is superseded,
whether it raises by its own checks or at the chunk rule, and the statement O33 assembled from the commands that raise. -/
namespace Sys2Proof.Proofs.FaultEntry

open Sys2Proof Sys2Proof.Machine Sys2Proof.Proofs.ChunkRule

variable {s t : State} {e : Engine}

/-- `t` is what fault entry with the kind `kind` makes of `s`, but for the sink's replies: a burst answered `Fail` has
used one up. -/
def IsFaultEntry (kind : ErrKind) (s t : State) : Prop :=
  t.eng = s.eng.faulted kind ∧ t.responses = s.responses ++ [kind.code ++ 0#8] ∧ t.sink = s.sink ∧ t.cfg = s.cfg ∧
    t.input = s.input

theorem isFaultEntry_raise (kind : ErrKind) (s : State) : IsFaultEntry kind s (raise kind s) :=
  ⟨rfl, rfl, rfl, rfl, rfl⟩

/-! ### The registers a command reaches the chunk rule with -/

@[simp] theorem takeChar_state (cfg : Config) (c : Byte) (e : Engine) : (takeChar cfg c e).state = e.state := by
  unfold takeChar
  split <;> rfl

/-- A character taken in writes only registers that fault entry clears. -/
theorem faulted_takeChar (kind : ErrKind) (cfg : Config) (c : Byte) (e : Engine) :
    (takeChar cfg c e).faulted kind = e.faulted kind := by
  unfold takeChar
  split <;> rfl

/-- So does a group completed. -/
theorem faulted_closeGroup (kind : ErrKind) (e : Engine) : (closeGroup e).faulted kind = e.faulted kind := rfl

/-- A command enters FAULT at the chunk rule by fault entry from the registers before the command, where its own
registers `e` differ from those in nothing that fault entry keeps (`hfault`). -/
theorem isFaultEntry_of_finish {force : Bool} {k : State → State}
    (h : (flush force (s.setEng e)).finish k = .next t) (ht : t.eng.state = .fault) (he : e.state ≠ .fault)
    (hk : ∀ u, u.eng.state ≠ .fault → (k u).eng.state ≠ .fault)
    (hfault : e.faulted .ioError = s.eng.faulted .ioError) : IsFaultEntry .ioError s t := by
  obtain ⟨-, rfl⟩ | ⟨-, -, rfl⟩ | ⟨-, -, rfl⟩ := flush_setEng_next h
  · exact absurd ht (hk _ he)
  · exact absurd ht (hk (flushed s e) he)
  · exact ⟨hfault, rfl, rfl, rfl, rfl⟩

/-! ### The commands that raise -/

theorem isFaultEntry_of_putEncode {b : Byte} (h : putEncode b s = .next t) (hs : s.eng.state ≠ .fault)
    (ht : t.eng.state = .fault) : ∃ kind, IsFaultEntry kind s t := by
  obtain ⟨-, rfl⟩ | ⟨-, h⟩ := putEncode_next h
  · exact absurd ht hs
  · exact ⟨.ioError, isFaultEntry_of_finish h ht hs (fun _ hu => hu) rfl⟩

theorem isFaultEntry_of_putDecode {c : Byte} (h : putDecode c s = .next t) (hs : s.eng.state ≠ .fault)
    (ht : t.eng.state = .fault) : ∃ kind, IsFaultEntry kind s t := by
  have htake : (takeChar s.cfg c s.eng).state ≠ .fault := by rwa [takeChar_state]
  obtain ⟨kind, -, rfl⟩ | ⟨-, -, rfl⟩ | ⟨-, -, h⟩ := putDecode_next h
  · exact ⟨kind, isFaultEntry_raise kind s⟩
  · exact absurd ht htake
  · have hfault := (faulted_closeGroup .ioError _).trans (faulted_takeChar .ioError s.cfg c s.eng)
    exact ⟨.ioError, isFaultEntry_of_finish h ht htake (fun _ hu => hu) hfault⟩

theorem isFaultEntry_of_execPut {x : Byte} (h : execPut x s = .next t) (hs : s.eng.state ≠ .fault)
    (ht : t.eng.state = .fault) : ∃ kind, IsFaultEntry kind s t := by
  obtain ⟨-, rfl⟩ | ⟨-, -, h⟩ | ⟨-, -, h⟩ := execPut_next h
  · exact absurd ht hs
  · exact isFaultEntry_of_putEncode h hs ht
  · exact isFaultEntry_of_putDecode h hs ht

theorem isFaultEntry_of_execEnd (h : execEnd s = .next t) (hs : s.eng.state ≠ .fault) (ht : t.eng.state = .fault) :
    ∃ kind, IsFaultEntry kind s t := by
  obtain ⟨-, rfl⟩ | ⟨-, -, h⟩ | ⟨-, -, -, rfl⟩ | ⟨-, -, -, h⟩ := execEnd_next h
  · exact absurd ht hs
  · exact ⟨.ioError, isFaultEntry_of_finish h ht hs (fun _ _ => by simp [encEnded]) rfl⟩
  · exact ⟨.invalidLength, isFaultEntry_raise .invalidLength s⟩
  · exact ⟨.ioError, isFaultEntry_of_finish h ht hs (fun _ _ => by simp [decEnded]) rfl⟩

theorem isFaultEntry_of_execAbt (h : execAbt s = .next t) (hs : s.eng.state ≠ .fault) (ht : t.eng.state = .fault) :
    ∃ kind, IsFaultEntry kind s t := by
  obtain ⟨-, rfl⟩ | ⟨-, rfl⟩ := execAbt_next h
  · exact ⟨.ioError, isFaultEntry_raise .ioError s⟩
  · exact absurd ht hs

end Sys2Proof.Proofs.FaultEntry
end

section
namespace Sys2Proof.Proofs

open Sys2Proof Sys2Proof.Machine Sys2Proof.Proofs.FaultEntry

/-- Settles O33: PUT, END and ABT enter FAULT by fault entry only; of the other commands, ENC, DEC and CLR write STATE
but never FAULT, and the lookups write no register. -/
theorem everyFaultIsFaultEntry : Obligations.EveryFaultIsFaultEntry := by
  intro s t i h hs ht
  cases i with
  | put x => exact isFaultEntry_of_execPut h hs ht
  | end_ => exact isFaultEntry_of_execEnd h hs ht
  | abt => exact isFaultEntry_of_execAbt h hs ht
  | enc =>
    obtain ⟨-, rfl⟩ | ⟨-, rfl⟩ := execEnc_next h
    · simp at ht
    · exact absurd ht hs
  | dec =>
    obtain ⟨-, rfl⟩ | ⟨-, rfl⟩ := execDec_next h
    · simp at ht
    · exact absurd ht hs
  | clr =>
    obtain ⟨-, rfl⟩ | ⟨-, rfl⟩ := execClr_next h
    · exact absurd ht hs
    · simp at ht
  | sym arg =>
    obtain ⟨_, _, rfl⟩ := execSym_next h
    exact absurd ht hs
  | idx char =>
    obtain ⟨_, _, rfl⟩ := execIdx_next h
    exact absurd ht hs

end Sys2Proof.Proofs
end

section
/-! The reset event (70_reset_and_hazards.md R130): the step it makes, and the statement O8 assembled from it. -/
namespace Sys2Proof.Proofs.ResetEvent

open Sys2Proof Sys2Proof.Machine

/-- Reset asks nothing of the state it finds. -/
theorem step_of_reset {s : State} {rest : List HostEvent} (hin : s.input = .reset :: rest) :
    step s = .next (pullReset { s with input := rest }) := by
  unfold step
  rw [hin]

end Sys2Proof.Proofs.ResetEvent
end

section
namespace Sys2Proof.Proofs

open Sys2Proof Sys2Proof.Machine Sys2Proof.Proofs.ResetEvent

/-- Settles O8: reset puts the reset registers of R39 in place of the engine's, and the fields outside the engine are
those of the state before it. -/
theorem resetClearsTheEngineOnly : Obligations.ResetClearsTheEngineOnly := by
  intro s rest hin
  refine ⟨pullReset { s with input := rest }, step_of_reset hin, ?_⟩
  rw [pullReset_eng]
  exact ⟨engineReset_state, engineReset_dir, engineReset_err, engineReset_acc, engineReset_cnt, engineReset_pads,
    engineReset_fin, engineReset_obuf, engineReset_incnt, engineReset_outcnt, engineReset_errpos,
    pullReset_responses _, pullReset_sink _, pullReset_sinkReplies _, pullReset_sinkAsked _, pullReset_cfg _,
    pullReset_input _⟩

end Sys2Proof.Proofs
end

section
/-! Words and commands in both directions (30_encoding.md R66 to R70): the decoder on an assembled word, the row a word
selects against the command it decodes to, and the three families of reserved words; with them the statements O1 to O5. -/
namespace Sys2Proof.Proofs.WordsAndCommands

open Sys2Proof Sys2Proof.Machine Sys2Proof.Proofs.ReservedArgument Sys2Proof.Proofs.WordRows

variable {w : CmdWord} {i j : Instr}

/-- The decoder reads the operation code and the operand back out of the assembled word. -/
theorem decode_encode (hi : WellFormed i) : decode (encode i) = .command i := by
  simp only [decode, encode, opField_append, argField_append]
  cases i with
  | sym arg => exact if_pos (beq_iff_eq.mp hi)
  | enc | dec | put | end_ | abt | clr | idx => rfl

/-! ### Rows -/

/-- Every mask of R67 keeps the operation code, so a word that selects a row has the row's. -/
theorem opField_of_selectsRow (h : selectsRow w (tableRow j) = true) : opField w = opcode j := by
  have hmask : opField (tableRow j).2 = BitVec.allOnes 4 := by
    cases j <;> (simp only [tableRow]; rfl)
  have hmatch : opField (tableRow j).1 = opcode j := by
    cases j <;> (simp only [tableRow, opcode]; rfl)
  calc opField w = opField (w &&& (tableRow j).2) := by
        simp only [opField] at hmask ⊢
        rw [BitVec.extractLsb'_and, hmask, BitVec.and_allOnes]
    _ = opcode j := by rw [beq_iff_eq.mp h, hmatch]

/-- The mask of a command without an operand keeps the argument too, and its match has it 0. -/
theorem argField_of_selectsRow (h : selectsRow w (tableRow j) = true) (hmask : argField (tableRow j).2 = BitVec.allOnes 8)
    (hmatch : argField (tableRow j).1 = 0#8) : argField w = 0#8 := by
  calc argField w = argField (w &&& (tableRow j).2) := by
        simp only [argField] at hmask ⊢
        rw [BitVec.extractLsb'_and, hmask, BitVec.and_allOnes]
    _ = 0#8 := by rw [beq_iff_eq.mp h, hmatch]

/-- The mask of SYM keeps the top two bits of the argument, and its match has them 0. -/
theorem index_of_selectsRow_sym {arg : Byte} (h : selectsRow w (tableRow (.sym arg)) = true) :
    (argField w).extractLsb' 6 2 = 0#2 := by
  have hw : (w &&& 0xFC0#12).extractLsb' 6 2 = (0x800#12).extractLsb' 6 2 := congrArg _ (beq_iff_eq.mp h)
  have hand : (w &&& 0xFC0#12).extractLsb' 6 2 = w.extractLsb' 6 2 := by
    rw [BitVec.extractLsb'_and]
    exact BitVec.and_allOnes
  refine Eq.trans ?_ hw
  rw [hand, argField, BitVec.extractLsb'_extractLsb'_of_le (by decide)]

/-- A word selects the row of a command exactly when it decodes to a command of that row. -/
theorem selectsRow_tableRow_iff :
    selectsRow w (tableRow j) = true ↔ ∃ i, decode w = .command i ∧ tableRow i = tableRow j := by
  constructor
  · intro h
    have hop := opField_of_selectsRow h
    cases j with
    | enc | dec | end_ | abt | clr =>
      have harg := argField_of_selectsRow h rfl rfl
      exact ⟨_, by simp only [decode, hop, harg]; rfl, rfl⟩
    | put item => exact ⟨.put (argField w), by simp only [decode, hop, opcode]; rfl, rfl⟩
    | idx char => exact ⟨.idx (argField w), by simp only [decode, hop, opcode]; rfl, rfl⟩
    | sym arg => exact ⟨.sym (argField w), by simp only [decode, hop, opcode, index_of_selectsRow_sym h]; rfl, rfl⟩
  · rintro ⟨i, hd, hrow⟩
    obtain ⟨rfl, hi⟩ := encode_of_decode hd
    rw [← hrow, selectsRow_encode hi]

theorem exists_tableRow_of_mem {row : CmdWord × CmdWord} (h : row ∈ tableRows) : ∃ j, row = tableRow j := by
  simp only [tableRows, List.mem_cons, List.not_mem_nil, or_false] at h
  obtain rfl | rfl | rfl | rfl | rfl | rfl | rfl | rfl := h <;> exact ⟨_, rfl⟩

/-- The eight rows are different, so a command's row stands in the table once. -/
theorem filter_selectsRow_of_command (hd : decode w = .command i) :
    tableRows.filter (selectsRow w) = [tableRow i] := by
  have hsel : ∀ row ∈ tableRows, selectsRow w row = (row == tableRow i) := by
    intro row hrow
    obtain ⟨j, rfl⟩ := exists_tableRow_of_mem hrow
    rw [Bool.eq_iff_iff, selectsRow_tableRow_iff, hd, beq_iff_eq]
    exact ⟨fun ⟨_, hi, hrow⟩ => Decoded.command.inj hi ▸ hrow.symm, fun hrow => ⟨i, rfl, hrow.symm⟩⟩
  have honce : tableRows.count (tableRow i) = 1 :=
    List.count_eq_one_of_mem (by decide) (tableRow_mem_tableRows i)
  rw [List.filter_congr hsel, List.filter_beq, honce]
  rfl

theorem filter_selectsRow_of_reserved {r : Reserved} (hd : decode w = .reserved r) :
    tableRows.filter (selectsRow w) = [] := by
  refine List.filter_eq_nil_iff.mpr fun row hrow hsel => ?_
  obtain ⟨j, rfl⟩ := exists_tableRow_of_mem hrow
  obtain ⟨i, hi, -⟩ := selectsRow_tableRow_iff.mp hsel
  rw [hd] at hi
  contradiction

/-! ### Reserved words -/

theorem withoutArg_eq_reserved {arg : Byte} {r : Reserved} :
    withoutArg j arg = .reserved r ↔ arg ≠ 0#8 ∧ r = .argument := by
  unfold withoutArg
  split <;> simp [*, eq_comm]

theorem decode_eq_reserved_iff :
    (decode w = .reserved .opcode ↔ opField w ∈ [0x0#4, 0x7#4, 0xA#4, 0xB#4, 0xC#4, 0xD#4, 0xE#4, 0xF#4]) ∧
    (decode w = .reserved .argument ↔ opField w ∈ [0x1#4, 0x2#4, 0x4#4, 0x5#4, 0x6#4] ∧ argField w ≠ 0#8) ∧
    (decode w = .reserved .index ↔ opField w = 0x8#4 ∧ (argField w).extractLsb' 6 2 ≠ 0#2) := by
  unfold decode
  simp only [List.mem_cons, List.not_mem_nil, or_false, ← BitVec.toNat_inj (x := opField w)]
  split
  case h_1 hop | h_2 hop | h_4 hop | h_5 hop | h_6 hop => simp [hop, withoutArg_eq_reserved]
  case h_3 hop | h_8 hop => simp [hop]
  case h_7 hop => split <;> simp [*]
  case h_9 =>
    have hlt := (opField w).isLt
    simp only [imp_false] at *
    simp [*]
    omega

end Sys2Proof.Proofs.WordsAndCommands
end

section
namespace Sys2Proof.Proofs

open Sys2Proof Sys2Proof.Machine Sys2Proof.Proofs.WordRows Sys2Proof.Proofs.WordsAndCommands

/-- Settles O1: the decoder on the assembled word, by the constructors of the command. -/
theorem decodeOfEncodeIsTheCommand : Obligations.DecodeOfEncodeIsTheCommand := fun _ => decode_encode

/-- Settles O2: by the arms of the decoder. -/
theorem encodeOfDecodeIsTheWord : Obligations.EncodeOfDecodeIsTheWord := fun _ _ => encode_of_decode

/-- Settles O3: a word selects the rows of the commands it decodes to, and these are one or none. -/
theorem everyWordSelectsOneRowOrIsReserved : Obligations.EveryWordSelectsOneRowOrIsReserved := by
  intro w
  cases hd : decode w with
  | command i => exact .inl ⟨i, rfl, filter_selectsRow_of_command hd⟩
  | reserved r => exact .inr ⟨⟨r, rfl⟩, filter_selectsRow_of_reserved hd⟩

/-- Settles O4: by the arms of the decoder, the last of which is taken by the operation codes of no row. -/
theorem reservedWordsAreTheThreeFamilies : Obligations.ReservedWordsAreTheThreeFamilies := fun _ => decode_eq_reserved_iff

/-- Settles O5: twelve closed words, decoded. -/
theorem sampleWordsDecode : Obligations.SampleWordsDecode := by
  unfold Obligations.SampleWordsDecode
  decide

end Sys2Proof.Proofs
end

section
/-! What a command does, said once for all eight: it answers at once, or it reaches the chunk rule of 20_memory.md R54
with certain registers and ends as the sink replies. The two inductive predicates list the ways, and `exec` is tied to
them in both directions, so that a fact of every command is a case split over the ways and no command is unfolded. -/
namespace Sys2Proof.Proofs.Effects

open Sys2Proof Sys2Proof.Machine Sys2Proof.Proofs.LookupCommands Sys2Proof.Proofs.ChunkRule
  Sys2Proof.Proofs.EncodeCommands Sys2Proof.Proofs.DecodeCommands Sys2Proof.Proofs.ControlCommands

variable {s t : State} {i : Instr} {force : Bool} {e : Engine} {rest : Engine → Engine}

/-! ### The ways -/

/-- A command that writes the registers `e` and answers OK. -/
def completed (s : State) (e : Engine) : State := { s with eng := e }.answer 0x000#12

/-- The lookups with an operand of their own: legal in every STATE, without effect on it (40_alphabet_lut.md R85, R86). -/
def isLookup : Instr → Bool
  | .sym arg => (Instr.sym arg).wellFormed
  | .idx _ => true
  | .enc | .dec | .put _ | .end_ | .abt | .clr => false

/-- The errors a command raises by its own checks, in an open stream (60_exceptions.md R112 to R115). -/
inductive Raises (s : State) : Instr → ErrKind → Prop where
  | abt : Raises s .abt .ioError
  | end_ (hd : s.eng.dir = .decode) (hc : s.eng.cnt ≠ 0#2) : Raises s .end_ .invalidLength
  | put {c : Byte} {k : ErrKind} (hd : s.eng.dir = .decode) (hk : checkChar s.cfg s.eng c = some k) :
    Raises s (.put c) k

/-- An item accepted that does not complete its group, with the registers it leaves but for INCNT. -/
inductive Takes (s : State) : Byte → Engine → Prop where
  | encode {b : Byte} (hd : s.eng.dir = .encode) (hc : s.eng.cnt < 2#2) :
    Takes s b { s.eng with acc := placeByte s.eng.cnt b s.eng.acc, cnt := s.eng.cnt + 1#2 }
  | decode {c : Byte} (hd : s.eng.dir = .decode) (hok : checkChar s.cfg s.eng c = none) (hc : s.eng.cnt < 3#2) :
    Takes s c { takeChar s.cfg c s.eng with cnt := s.eng.cnt + 1#2 }

/-- The commands that do not reach the chunk rule, with the state each leaves. -/
inductive Immediate (s : State) : Instr → State → Prop where
  | refused {i : Instr} (h : legalIn i s.eng.state = false) : Immediate s i (s.answer 0xF00#12)
  | noIndex {arg : Byte} (h : arg.extractLsb' 6 2 ≠ 0#2) : Immediate s (.sym arg) (s.answer 0xF00#12)
  | lookedUp {i : Instr} (h : isLookup i = true) : Immediate s i (s.answer (cleanResponse s.cfg i))
  | opened {i : Instr} {d : Dir} (hs : s.eng.state = .idle) (hi : i = .enc ∧ d = .encode ∨ i = .dec ∧ d = .decode) :
    Immediate s i (completed s { s.eng with state := .run, dir := d })
  | cleared (hs : s.eng.state ≠ .run) : Immediate s .clr (completed s Engine.reset)
  | raised {i : Instr} {k : ErrKind} (hs : s.eng.state = .run) (h : Raises s i k) : Immediate s i (raise k s)
  | taken {x : Byte} {e : Engine} (hs : s.eng.state = .run) (h : Takes s x e) :
    Immediate s (.put x) (completed s (countItem e))

/-- The commands that reach the chunk rule: whether they force it, the registers they reach it with, and what they have
left to do. -/
inductive ReachesFlush (s : State) : Instr → Bool → Engine → (Engine → Engine) → Prop where
  | putEncode {b : Byte} (hs : s.eng.state = .run) (hd : s.eng.dir = .encode) (hc : ¬ s.eng.cnt < 2#2) :
    ReachesFlush s (.put b) false (encClosed b s) countItem
  | putDecode {c : Byte} (hs : s.eng.state = .run) (hd : s.eng.dir = .decode)
    (hok : checkChar s.cfg s.eng c = none) (hc : ¬ s.eng.cnt < 3#2) :
    ReachesFlush s (.put c) false (closeGroup (takeChar s.cfg c s.eng)) countItem
  | endEncode (hs : s.eng.state = .run) (hd : s.eng.dir = .encode) :
    ReachesFlush s .end_ true (encTailed s) encEnded
  | endDecode (hs : s.eng.state = .run) (hd : s.eng.dir = .decode) (hc : s.eng.cnt = 0#2) :
    ReachesFlush s .end_ true s.eng decEnded

/-- All that a command can do that reaches a next state. -/
inductive Completes (s : State) (i : Instr) : State → Prop where
  | immediate {t : State} (h : Immediate s i t) : Completes s i t
  | unflushed {force : Bool} {e : Engine} {rest : Engine → Engine} (h : ReachesFlush s i force e rest)
    (hdue : flushDue force (s.setEng e) = false) : Completes s i (completed s (rest e))
  | burst {force : Bool} {e : Engine} {rest : Engine → Engine} (h : ReachesFlush s i force e rest)
    (hdue : flushDue force (s.setEng e) = true) (hr : s.sinkReply = .ok) :
    Completes s i (completed (flushed s e) (rest e.drained))
  | failed {force : Bool} {e : Engine} {rest : Engine → Engine} (h : ReachesFlush s i force e rest)
    (hdue : flushDue force (s.setEng e) = true) (hr : s.sinkReply = .fail) :
    Completes s i (raise .ioError s.sinkReplied)

/-! ### Fields -/

@[simp] theorem completed_eng (s : State) (e : Engine) : (completed s e).eng = e := rfl
@[simp] theorem completed_cfg (s : State) (e : Engine) : (completed s e).cfg = s.cfg := rfl
@[simp] theorem completed_sink (s : State) (e : Engine) : (completed s e).sink = s.sink := rfl
@[simp] theorem completed_responses (s : State) (e : Engine) :
    (completed s e).responses = s.responses ++ [0x000#12] := rfl
@[simp] theorem completed_input (s : State) (e : Engine) : (completed s e).input = s.input := rfl
@[simp] theorem completed_sinkReplies (s : State) (e : Engine) : (completed s e).sinkReplies = s.sinkReplies := rfl
@[simp] theorem completed_sinkAsked (s : State) (e : Engine) : (completed s e).sinkAsked = s.sinkAsked := rfl

@[simp] theorem answer_eng (s : State) (r : RspWord) : (s.answer r).eng = s.eng := rfl
@[simp] theorem answer_cfg (s : State) (r : RspWord) : (s.answer r).cfg = s.cfg := rfl
@[simp] theorem answer_sink (s : State) (r : RspWord) : (s.answer r).sink = s.sink := rfl
@[simp] theorem answer_responses (s : State) (r : RspWord) : (s.answer r).responses = s.responses ++ [r] := rfl
@[simp] theorem answer_input (s : State) (r : RspWord) : (s.answer r).input = s.input := rfl
@[simp] theorem answer_sinkReplies (s : State) (r : RspWord) : (s.answer r).sinkReplies = s.sinkReplies := rfl
@[simp] theorem answer_sinkAsked (s : State) (r : RspWord) : (s.answer r).sinkAsked = s.sinkAsked := rfl

@[simp] theorem flushed_cfg (s : State) (e : Engine) : (flushed s e).cfg = s.cfg := rfl
@[simp] theorem flushed_sink (s : State) (e : Engine) : (flushed s e).sink = s.sink ++ [e.obuf] := rfl
@[simp] theorem flushed_responses (s : State) (e : Engine) : (flushed s e).responses = s.responses := rfl
@[simp] theorem flushed_input (s : State) (e : Engine) : (flushed s e).input = s.input := rfl
@[simp] theorem flushed_sinkReplies (s : State) (e : Engine) : (flushed s e).sinkReplies = s.sinkReplies.tail := rfl
@[simp] theorem flushed_sinkAsked (s : State) (e : Engine) : (flushed s e).sinkAsked = s.sinkAsked + 1 := rfl

@[simp] theorem takeChar_dir (cfg : Config) (c : Byte) (e : Engine) : (takeChar cfg c e).dir = e.dir := by
  unfold takeChar
  split <;> rfl
@[simp] theorem takeChar_err (cfg : Config) (c : Byte) (e : Engine) : (takeChar cfg c e).err = e.err := by
  unfold takeChar
  split <;> rfl
@[simp] theorem takeChar_cnt (cfg : Config) (c : Byte) (e : Engine) : (takeChar cfg c e).cnt = e.cnt := by
  unfold takeChar
  split <;> rfl
@[simp] theorem takeChar_fin (cfg : Config) (c : Byte) (e : Engine) : (takeChar cfg c e).fin = e.fin := by
  unfold takeChar
  split <;> rfl
@[simp] theorem takeChar_obuf (cfg : Config) (c : Byte) (e : Engine) : (takeChar cfg c e).obuf = e.obuf := by
  unfold takeChar
  split <;> rfl
@[simp] theorem takeChar_incnt (cfg : Config) (c : Byte) (e : Engine) : (takeChar cfg c e).incnt = e.incnt := by
  unfold takeChar
  split <;> rfl
@[simp] theorem takeChar_outcnt (cfg : Config) (c : Byte) (e : Engine) : (takeChar cfg c e).outcnt = e.outcnt := by
  unfold takeChar
  split <;> rfl
@[simp] theorem takeChar_errpos (cfg : Config) (c : Byte) (e : Engine) : (takeChar cfg c e).errpos = e.errpos := by
  unfold takeChar
  split <;> rfl

/-! ### The ways are what `exec` does -/

theorem exec_of_isLookup (h : isLookup i = true) (s : State) : exec i s = .next (s.answer (cleanResponse s.cfg i)) := by
  cases i with
  | sym arg => exact exec_sym_of_index (beq_iff_eq.mp h) s
  | idx char =>
    cases hn : nia (decLut s.cfg char)
    · simpa [cleanResponse, hn] using exec_idx_of_not_nia hn
    · simpa [cleanResponse, hn] using exec_idx_of_nia hn
  | enc | dec | put | end_ | abt | clr => contradiction

theorem exec_of_not_legal (h : legalIn i s.eng.state = false) : exec i s = .next (s.answer 0xF00#12) := by
  cases i with
  | enc => exact exec_enc_of_not_idle fun hs => by simp [hs, legalIn] at h
  | dec => exact exec_dec_of_not_idle fun hs => by simp [hs, legalIn] at h
  | put x => exact exec_put_of_not_run fun hs => by simp [hs, legalIn] at h
  | end_ => exact exec_end_of_not_run fun hs => by simp [hs, legalIn] at h
  | abt => exact exec_abt_of_not_run fun hs => by simp [hs, legalIn] at h
  | clr =>
    refine exec_clr_of_run ?_
    cases hs : s.eng.state <;> simp [hs, legalIn] at h ⊢
  | sym arg => simp [legalIn] at h
  | idx char => simp [legalIn] at h

theorem exec_put_of_decode {c : Byte} (hs : s.eng.state = .run) (hd : s.eng.dir = .decode) :
    exec (.put c) s = putDecode c s := by
  simp only [exec, execPut, hs, hd, if_true]

theorem exec_of_raises (hs : s.eng.state = .run) {k : ErrKind} (h : Raises s i k) : exec i s = .next (raise k s) := by
  cases h with
  | abt => exact if_pos hs
  | end_ hd hc => exact (exec_end_of_decode hs hd).trans (endDecode_of_cnt_ne_zero hc)
  | put hd hk =>
    rw [exec_put_of_decode hs hd]
    simp only [putDecode, hk]

theorem exec_of_takes (hs : s.eng.state = .run) {x : Byte} (h : Takes s x e) :
    exec (.put x) s = .next (completed s (countItem e)) := by
  cases h with
  | encode hd hc => exact (exec_put_of_encode hs hd).trans (putEncode_of_cnt_lt_two hc)
  | decode hd hok hc =>
    rw [exec_put_of_decode hs hd]
    simp only [putDecode, hok, hc, if_true, accepted_eq_answer]
    rfl

theorem exec_of_immediate (h : Immediate s i t) : exec i s = .next t := by
  cases h with
  | refused h => exact exec_of_not_legal h
  | noIndex h => exact exec_sym_of_not_index h s
  | lookedUp h => exact exec_of_isLookup h s
  | opened hs hi =>
    obtain ⟨rfl, rfl⟩ | ⟨rfl, rfl⟩ := hi
    · exact exec_enc_of_idle hs
    · exact exec_dec_of_idle hs
  | cleared hs => exact exec_clr_of_not_run hs
  | raised hs h => exact exec_of_raises hs h
  | taken hs h => exact exec_of_takes hs h

theorem exec_of_reachesFlush (h : ReachesFlush s i force e rest) :
    exec i s = (flush force (s.setEng e)).finish fun u => completed u (rest u.eng) := by
  have haccepted : accepted = fun u => completed u (countItem u.eng) := funext accepted_eq_answer
  cases h with
  | putEncode hs hd hc => rw [exec_put_of_encode hs hd, putEncode_of_not_cnt_lt_two hc, haccepted]
  | putDecode hs hd hok hc =>
    rw [exec_put_of_decode hs hd, ← haccepted]
    simp only [putDecode, hok, hc, if_false]
  | endEncode hs hd => exact exec_end_of_encode hs hd
  | endDecode hs hd hc => exact (exec_end_of_decode hs hd).trans (endDecode_of_cnt_eq_zero hc)

/-- In an open stream PUT raises, takes its item, or completes a group. -/
theorem put_cases (hs : s.eng.state = .run) (x : Byte) :
    (∃ t, Immediate s (.put x) t) ∨ ∃ force e rest, ReachesFlush s (.put x) force e rest := by
  cases hd : s.eng.dir with
  | encode =>
    by_cases hc : s.eng.cnt < 2#2
    · exact .inl ⟨_, .taken hs (.encode hd hc)⟩
    · exact .inr ⟨_, _, _, .putEncode hs hd hc⟩
  | decode =>
    cases hk : checkChar s.cfg s.eng x with
    | some k => exact .inl ⟨_, .raised hs (.put hd hk)⟩
    | none =>
      by_cases hc : s.eng.cnt < 3#2
      · exact .inl ⟨_, .taken hs (.decode hd hk hc)⟩
      · exact .inr ⟨_, _, _, .putDecode hs hd hk hc⟩

theorem end_cases (hs : s.eng.state = .run) :
    (∃ t, Immediate s .end_ t) ∨ ∃ force e rest, ReachesFlush s .end_ force e rest := by
  cases hd : s.eng.dir with
  | encode => exact .inr ⟨_, _, _, .endEncode hs hd⟩
  | decode =>
    by_cases hc : s.eng.cnt = 0#2
    · exact .inr ⟨_, _, _, .endDecode hs hd hc⟩
    · exact .inl ⟨_, .raised hs (.end_ hd hc)⟩

/-- The two ways are all there are. -/
theorem immediate_or_reachesFlush (i : Instr) (s : State) :
    (∃ t, Immediate s i t) ∨ ∃ force e rest, ReachesFlush s i force e rest := by
  cases hl : legalIn i s.eng.state with
  | false => exact .inl ⟨_, .refused hl⟩
  | true =>
    cases i with
    | put x => exact put_cases (by cases hs : s.eng.state <;> simp [hs, legalIn] at hl ⊢) x
    | end_ => exact end_cases (by cases hs : s.eng.state <;> simp [hs, legalIn] at hl ⊢)
    | abt => exact .inl ⟨_, .raised (by cases hs : s.eng.state <;> simp [hs, legalIn] at hl ⊢) .abt⟩
    | enc => exact .inl ⟨_, .opened (by cases hs : s.eng.state <;> simp [hs, legalIn] at hl ⊢) (.inl ⟨rfl, rfl⟩)⟩
    | dec => exact .inl ⟨_, .opened (by cases hs : s.eng.state <;> simp [hs, legalIn] at hl ⊢) (.inr ⟨rfl, rfl⟩)⟩
    | clr => exact .inl ⟨_, .cleared fun hs => by simp [hs, legalIn] at hl⟩
    | sym arg =>
      by_cases hi : arg.extractLsb' 6 2 = 0#2
      · exact .inl ⟨_, .lookedUp (beq_iff_eq.mpr hi)⟩
      · exact .inl ⟨_, .noIndex hi⟩
    | idx char => exact .inl ⟨_, .lookedUp rfl⟩

/-- Up to the chunk rule a command writes only registers that fault entry clears. -/
theorem ReachesFlush.faulted (h : ReachesFlush s i force e rest) (k : ErrKind) : e.faulted k = s.eng.faulted k := by
  cases h <;> simp [encClosed, encTailed, Engine.faulted]

theorem completes_of_exec (h : exec i s = .next t) : Completes s i t := by
  obtain ⟨u, hu⟩ | ⟨force, e, rest, hf⟩ := immediate_or_reachesFlush i s
  · rw [exec_of_immediate hu] at h
    obtain rfl := Host.Outcome.next.inj h
    exact .immediate hu
  · rw [exec_of_reachesFlush hf] at h
    obtain ⟨hdue, rfl⟩ | ⟨hdue, hr, rfl⟩ | ⟨hdue, hr, rfl⟩ := flush_setEng_next h
    · exact .unflushed hf hdue
    · exact .burst hf hdue hr
    · have hraise : raise .ioError (s.sinkReplied.setEng e) = raise .ioError s.sinkReplied :=
        congrArg (fun g => respond (.error .ioError) 0#8 (s.sinkReplied.setEng g)) (hf.faulted .ioError)
      exact hraise ▸ .failed hf hdue hr

/-! ### What the ways to the chunk rule have in common -/

theorem ReachesFlush.run (h : ReachesFlush s i force e rest) : s.eng.state = .run := by cases h <;> assumption

theorem ReachesFlush.put_or_end (h : ReachesFlush s i force e rest) :
    ((∃ x, i = .put x) ∧ force = false ∧ rest = countItem) ∨
      (i = .end_ ∧ force = true ∧ (rest = encEnded ∨ rest = decEnded)) := by
  cases h <;> simp

/-- Up to the chunk rule a command writes ACC, CNT, PADS, FIN and OBUF only. -/
theorem ReachesFlush.keeps (h : ReachesFlush s i force e rest) :
    e.state = s.eng.state ∧ e.dir = s.eng.dir ∧ e.err = s.eng.err ∧ e.incnt = s.eng.incnt ∧ e.outcnt = s.eng.outcnt ∧
      e.errpos = s.eng.errpos := by
  cases h <;> simp [encClosed, encTailed]

/-- After it, neither what it wrote to the ports nor DIR and the error registers. -/
theorem ReachesFlush.rest_keeps (h : ReachesFlush s i force e rest) (g : Engine) :
    (rest g).dir = g.dir ∧ (rest g).err = g.err ∧ (rest g).obuf = g.obuf ∧ (rest g).outcnt = g.outcnt ∧
      (rest g).errpos = g.errpos := by
  cases h <;> simp [countItem, encEnded, decEnded]

theorem Takes.keeps {x : Byte} (h : Takes s x e) :
    e.state = s.eng.state ∧ e.dir = s.eng.dir ∧ e.err = s.eng.err ∧ e.incnt = s.eng.incnt ∧ e.outcnt = s.eng.outcnt ∧
      e.errpos = s.eng.errpos ∧ e.obuf = s.eng.obuf ∧ e.fin = s.eng.fin := by
  cases h <;> simp

end Sys2Proof.Proofs.Effects
end

section
/-! What holds of every command (43_control.md R108 to R110, 20_memory.md R54, 10_state.md R30): facts of the ways a
command completes, and of those in which it does not, with the statements O31, O32, O37, O39, O42 and O43. -/
namespace Sys2Proof.Proofs.Effects

open Sys2Proof Sys2Proof.Machine Sys2Proof.Proofs.EncodeCommands

variable {s t : State} {i : Instr} {force : Bool} {e : Engine} {rest : Engine → Engine}

/-! ### Frame -/

theorem Completes.cfg (h : Completes s i t) : t.cfg = s.cfg := by
  cases h with
  | immediate h => cases h <;> rfl
  | unflushed | burst | failed => rfl

theorem Completes.input (h : Completes s i t) : t.input = s.input := by
  cases h with
  | immediate h => cases h <;> rfl
  | unflushed | burst | failed => rfl

theorem Completes.responses (h : Completes s i t) : ∃ rsp, t.responses = s.responses ++ [rsp] := by
  cases h with
  | immediate h => cases h <;> exact ⟨_, rfl⟩
  | unflushed | burst | failed => exact ⟨_, rfl⟩

theorem Immediate.sink (h : Immediate s i t) :
    t.sink = s.sink ∧ t.sinkAsked = s.sinkAsked ∧ t.sinkReplies = s.sinkReplies := by
  cases h <;> exact ⟨rfl, rfl, rfl⟩

theorem Completes.sink (h : Completes s i t) : t.sink = s.sink ∨ ∃ burst, t.sink = s.sink ++ [burst] := by
  cases h with
  | immediate h => exact .inl h.sink.1
  | unflushed | failed => exact .inl rfl
  | burst => exact .inr ⟨_, rfl⟩

/-! ### Responses -/

theorem errCode_response_ne_ok (k : ErrKind) : k.code ++ 0#8 ≠ 0x000#12 := by cases k <;> decide

/-- A lookup answers OK with its datum or 180, so it is never refused. -/
theorem cleanResponse_ne_refused (c : Config) (i : Instr) : cleanResponse c i ≠ 0xF00#12 := by
  cases i with
  | sym arg => exact rspWord_ok_ne_refused _
  | idx char =>
    cases hn : nia (decLut c char) <;> simp only [cleanResponse, hn, Bool.false_eq_true, if_true, if_false]
    · exact rspWord_ok_ne_refused _
    · decide
  | enc | dec | put | end_ | abt | clr => simp [cleanResponse]

theorem responses_ne_refused_of_legal (hi : WellFormed i) (hl : legalIn i s.eng.state = true) (h : Completes s i t) :
    t.responses ≠ s.responses ++ [0xF00#12] := by
  cases h with
  | immediate h =>
    cases h with
    | refused h => simp [hl] at h
    | noIndex h => exact absurd (beq_iff_eq.mp hi) h
    | lookedUp => simpa using cleanResponse_ne_refused s.cfg i
    | opened | cleared | taken => simp
    | raised hs h => simpa using rspWord_error_ne_refused _ _
  | unflushed | burst => simp
  | failed => simpa using rspWord_error_ne_refused _ _

/-! ### STATE -/

theorem legalIn_of_isLookup (h : isLookup i = true) : (∀ x, i ≠ .put x) ∧ i ≠ .clr ∧ i ≠ .end_ := by
  cases i <;> simp_all [isLookup]

/-- A command that goes on from the chunk rule leaves the stream open or, as END, closes it. -/
theorem ReachesFlush.rest_state (h : ReachesFlush s i force e rest) :
    (∀ g : Engine, (rest g).state = g.state) ∨ i = .end_ ∧ ∀ g : Engine, (rest g).state = .done := by
  cases h <;> simp [countItem, encEnded, decEnded]

/-- The errors of checks 1 to 4 of R98. -/
theorem checkChar_kind {c : Config} {x : Byte} {k : ErrKind} (h : checkChar c e x = some k) :
    k = .invalidSymbol ∨ k = .invalidPadding := by
  revert h
  unfold checkChar
  repeat' split
  all_goals simp +contextual [eq_comm]

/-- What R109 allows a command that enters FAULT, by the way it raised. -/
theorem Raises.cause {k : ErrKind} (h : Raises s i k) :
    (∃ x, i = .put x) ∧ s.eng.dir = .decode ∧ (k = .invalidSymbol ∨ k = .invalidPadding) ∨
      i = .end_ ∧ s.eng.dir = .decode ∧ k = .invalidLength ∨ i = .abt ∧ k = .ioError := by
  cases h with
  | abt => exact .inr (.inr ⟨rfl, rfl⟩)
  | end_ hd hc => exact .inr (.inl ⟨rfl, hd, rfl⟩)
  | put hd hk => exact .inl ⟨⟨_, rfl⟩, hd, checkChar_kind hk⟩

/-! ### INCNT -/

/-- A PUT that goes on counts its item; END does not. -/
theorem ReachesFlush.rest_incnt (h : ReachesFlush s i force e rest) :
    (∃ x, i = .put x) ∧ (∀ g : Engine, (rest g).incnt = g.incnt + 1#64) ∨
      i = .end_ ∧ ∀ g : Engine, (rest g).incnt = g.incnt := by
  cases h <;> simp [countItem, encEnded, decEnded]

/-- What a command that answers may do to INCNT: an accepted item adds 1 and answers OK, CLR zeroes it. -/
theorem Completes.incnt (h : Completes s i t) :
    (∃ x, i = .put x) ∧ t.responses = s.responses ++ [0x000#12] ∧ t.eng.incnt = s.eng.incnt + 1#64 ∨
      i = .clr ∧ s.eng.state ≠ .run ∧ t.eng.incnt = 0#64 ∨
      ((∃ x, i = .put x) → t.responses ≠ s.responses ++ [0x000#12]) ∧ (i = .clr → s.eng.state = .run) ∧
        t.eng.incnt = s.eng.incnt := by
  cases h with
  | immediate h =>
    cases h with
    | refused h =>
      refine .inr (.inr ⟨by simp, ?_, rfl⟩)
      rintro rfl
      cases hs : s.eng.state <;> simp [hs, legalIn] at h ⊢
    | noIndex => exact .inr (.inr ⟨by simp, by simp, rfl⟩)
    | lookedUp h =>
      obtain ⟨hput, hclr, -⟩ := legalIn_of_isLookup h
      exact .inr (.inr ⟨fun ⟨x, hx⟩ => absurd hx (hput x), fun hi => absurd hi hclr, rfl⟩)
    | opened hs hi => exact .inr (.inr ⟨by rintro ⟨x, rfl⟩; simp at hi, by rintro rfl; simp at hi, rfl⟩)
    | cleared hs => exact .inr (.inl ⟨rfl, hs, rfl⟩)
    | raised hs h =>
      exact .inr (.inr ⟨by simpa [rspWord_error_zero] using fun _ _ => errCode_response_ne_ok _, fun _ => hs, rfl⟩)
    | taken hs h =>
      obtain ⟨-, -, -, hin, -⟩ := h.keeps
      exact .inl ⟨⟨_, rfl⟩, rfl, by simp [countItem, hin]⟩
  | unflushed h | burst h =>
    obtain ⟨-, -, -, hin, -⟩ := h.keeps
    obtain ⟨hi, hc⟩ | ⟨rfl, hc⟩ := h.rest_incnt
    · exact .inl ⟨hi, rfl, by simp [hc, hin]⟩
    · exact .inr (.inr ⟨by simp, by simp, by simp [hc, hin]⟩)
  | failed h =>
    exact .inr (.inr ⟨by simpa [rspWord_error_zero] using fun _ _ => errCode_response_ne_ok _, fun _ => h.run, rfl⟩)

/-! ### Completion -/

theorem ReachesFlush.end_or_put (h : ReachesFlush s i force e rest) : i = .end_ ∨ ∃ x, i = .put x :=
  h.put_or_end.elim (fun ⟨hx, _⟩ => .inr hx) fun ⟨hi, _⟩ => .inl hi

/-- The replies still to come are nothing a command reads before the chunk rule. -/
theorem ReachesFlush.of_sinkReplies {replies : List SinkReply} (replies' : List SinkReply)
    (h : ReachesFlush { s with sinkReplies := replies } i force e rest) :
    ReachesFlush { s with sinkReplies := replies' } i force e rest := by
  cases h with
  | putEncode hs hd hc => exact .putEncode hs hd hc
  | putDecode hs hd hok hc => exact .putDecode hs hd hok hc
  | endEncode hs hd => exact .endEncode hs hd
  | endDecode hs hd hc => exact .endDecode hs hd hc

theorem exists_next_of_not_silent (hr : s.sinkReply ≠ .silent) (i : Instr) : ∃ t, exec i s = .next t := by
  obtain ⟨t, ht⟩ | ⟨force, e, rest, hf⟩ := immediate_or_reachesFlush i s
  · exact ⟨t, exec_of_immediate ht⟩
  · rw [exec_of_reachesFlush hf]
    cases hres : (flush force (s.setEng e)).finish fun u => completed u (rest u.eng) with
    | next t => exact ⟨t, rfl⟩
    | fault f => exact absurd (flush_finish_fault hres).2 hr
    | refused r => exact absurd hres flush_finish_ne_refused

theorem exec_of_silent (h : ReachesFlush s i force e rest) (hdue : flushDue force (s.setEng e) = true)
    (hr : s.sinkReply = .silent) : exec i s = .fault .sinkSilent := by
  rw [exec_of_reachesFlush h, flush_of_silent hdue hr]
  rfl

theorem exec_ne_refused (i : Instr) (s : State) (r : Refusal) : exec i s ≠ .refused r := by
  obtain ⟨t, ht⟩ | ⟨force, e, rest, hf⟩ := immediate_or_reachesFlush i s
  · simp [exec_of_immediate ht]
  · rw [exec_of_reachesFlush hf]
    exact flush_finish_ne_refused

theorem silent_of_exec_fault {f : Fault} (h : exec i s = .fault f) :
    f = .sinkSilent ∧ s.sinkReply = .silent ∧ s.eng.state = .run ∧ (i = .end_ ∨ ∃ x, i = .put x) := by
  obtain ⟨t, ht⟩ | ⟨force, e, rest, hf⟩ := immediate_or_reachesFlush i s
  · simp [exec_of_immediate ht] at h
  · rw [exec_of_reachesFlush hf] at h
    exact ⟨rfl, (flush_finish_fault h).2, hf.run, hf.end_or_put⟩

/-- A command that asked the sink reached the chunk rule with a burst due, whatever the reply is. -/
theorem fault_of_silent_instead {later : List SinkReply} (h : exec i { s with sinkReplies := .ok :: later } = .next t)
    (hasked : t.sinkAsked = s.sinkAsked + 1) :
    exec i { s with sinkReplies := .silent :: later } = .fault .sinkSilent := by
  cases completes_of_exec h with
  | immediate h => exact absurd (h.sink.2.1.symm.trans hasked) (Nat.ne_of_lt (Nat.lt_succ_self _))
  | unflushed => exact absurd hasked (Nat.ne_of_lt (Nat.lt_succ_self _))
  | failed _ _ hr => contradiction
  | burst hf hdue => exact exec_of_silent (hf.of_sinkReplies (.silent :: later)) hdue rfl

end Sys2Proof.Proofs.Effects
end

section
namespace Sys2Proof.Proofs

open Sys2Proof Sys2Proof.Machine Sys2Proof.Proofs.ChunkRule Sys2Proof.Proofs.EncodeCommands Sys2Proof.Proofs.Effects

/-- Settles O31: by the ways a command completes, of which only those of an illegal command or index answer F00. -/
theorem refusalTable : Obligations.RefusalTable := fun _ _ hi =>
  ⟨exec_of_not_legal, fun hl _ h => responses_ne_refused_of_legal hi hl (completes_of_exec h)⟩

/-- Settles O32: by the ways a command completes. -/
theorem stateChangesOnlyAsListed : Obligations.StateChangesOnlyAsListed := by
  intro s t i hexec
  cases completes_of_exec hexec with
  | immediate h =>
    cases h with
    | refused | noIndex | lookedUp => exact .inl rfl
    | opened hs hi => exact .inr (.inl ⟨hs, rfl, rfl, by simpa using hi⟩)
    | cleared hs =>
      cases hst : s.eng.state <;> simp [hst] at hs ⊢
    | raised hs h =>
      refine .inr (.inr (.inr (.inl ⟨hs, rfl, _, rfl, rfl, ?_⟩)))
      have := h.cause
      tauto
    | taken hs h => exact .inl h.keeps.1
  | unflushed h | burst h =>
    obtain hkeep | ⟨rfl, hdone⟩ := h.rest_state
    · exact .inl ((hkeep _).trans h.keeps.1)
    · exact .inr (.inr (.inl ⟨h.run, hdone _, rfl, rfl⟩))
  | failed h hdue hr =>
    refine .inr (.inr (.inr (.inl ⟨h.run, rfl, _, rfl, rfl, ?_⟩)))
    obtain rfl | hx := h.end_or_put
    · exact .inr (.inl ⟨rfl, .inr ⟨rfl, hr⟩⟩)
    · exact .inl ⟨hx, .inr ⟨rfl, hr⟩⟩

/-- Settles O37: the three things a command can do to INCNT are told apart by the command and its response. -/
theorem incntCountsAcceptedItems : Obligations.IncntCountsAcceptedItems := by
  intro s t i hexec
  obtain ⟨hput, hok, hin⟩ | ⟨rfl, hs, hin⟩ | ⟨hput, hclr, hin⟩ := (completes_of_exec hexec).incnt
  · obtain ⟨x, rfl⟩ := hput
    exact ⟨fun _ _ => hin, fun _ hn => absurd hok hn, by simp, fun hn => absurd rfl (hn x)⟩
  · exact ⟨by simp, by simp, fun _ _ => hin, by simp⟩
  · exact ⟨fun hp hok => absurd hok (hput hp), fun _ _ => hin, fun hi hs => absurd (hclr hi) hs, fun _ _ => hin⟩

/-- Settles O39: a command that reaches the chunk rule with a burst due is PUT or END, and asks the sink once. -/
theorem atMostOneBurstPerCommand : Obligations.AtMostOneBurstPerCommand := by
  intro s t i hexec
  cases completes_of_exec hexec with
  | immediate h =>
    obtain ⟨hsink, hasked, hreplies⟩ := h.sink
    exact .inl ⟨hasked, hreplies, hsink⟩
  | unflushed => exact .inl ⟨rfl, rfl, rfl⟩
  | burst h | failed h => exact .inr ⟨rfl, rfl, h.end_or_put⟩

/-- Settles O42: a command stops only at the chunk rule with a burst due and a silent sink. -/
theorem everyCommandCompletesIfTheSinkAnswers : Obligations.EveryCommandCompletesIfTheSinkAnswers := fun i s =>
  ⟨fun hr => exists_next_of_not_silent hr i, fun _ => silent_of_exec_fault, exec_ne_refused i s,
    fun _ _ => fault_of_silent_instead⟩

/-- Settles O43: END answers OK from the chunk rule only, which it forces, so no burst is due where OBUF is empty. -/
theorem endFlushesEverything : Obligations.EndFlushesEverything := by
  intro s t hexec hok
  cases completes_of_exec hexec with
  | immediate h =>
    cases h with
    | refused => simp at hok
    | lookedUp h => simp [isLookup] at h
    | opened hs hi => simp at hi
    | raised => simp [rspWord_error_zero, errCode_response_ne_ok] at hok
  | unflushed h hdue =>
    obtain ⟨⟨x, hx⟩, -⟩ | ⟨-, rfl, hrest⟩ := h.put_or_end
    · contradiction
    · have hempty : _ = [] := not_not.mp (mt (flushDue_true_iff _).mpr (Bool.eq_false_iff.mp hdue))
      obtain rfl | rfl := hrest <;> exact ⟨hempty, rfl, h.run⟩
  | burst h =>
    obtain ⟨⟨x, hx⟩, -⟩ | ⟨-, rfl, hrest⟩ := h.put_or_end
    · contradiction
    · obtain rfl | rfl := hrest <;> exact ⟨rfl, rfl, h.run⟩
  | failed => simp [rspWord_error_zero, errCode_response_ne_ok] at hok

/-- Settles O29: fault entry as it is defined. -/
theorem faultEntryRegisters : Obligations.FaultEntryRegisters := fun k s =>
  ⟨raise_eng k s ▸ faulted_errpos k s.eng, rfl, rfl, rfl, rfl, rfl, rfl, rfl, rfl, rfl, rfl, rfl, rfl, rfl, rfl⟩

/-- Settles O30: the three outcomes of the chunk rule, from the registers as they are. -/
theorem flushFollowsTheChunkRule : Obligations.FlushFollowsTheChunkRule := by
  rintro force s rest due r hdue rfl
  have hiff : due ↔ flushDue force (s.setEng s.eng) = true := hdue.trans (flushDue_iff force s).symm
  refine ⟨endsWithFlush_finish (fun _ => rfl) rfl hiff, fun hd hr => ?_⟩
  rw [flush_of_silent (s := s) (hiff.mp hd) hr]
  rfl

end Sys2Proof.Proofs
end

section
/-! Steps and scripts (43_control.md R110, 20_memory.md R58): a step takes the host's next event and, where that is a
command's word, executes the command, which neither reads nor writes the events still to come; with the statements O6,
O9, O10, O34, O40 and O41. -/
namespace Sys2Proof.Proofs.Steps

open Sys2Proof Sys2Proof.Machine Sys2Proof.Proofs.WordRows Sys2Proof.Proofs.WordsAndCommands Sys2Proof.Proofs.Effects

variable {s t : State} {i : Instr} {events : List HostEvent}

/-! ### The host's events -/

theorem step_of_command {w : CmdWord} (hin : s.input = .command w :: events) (hw : decode w = .command i) :
    step s = exec i { s with input := events } := by
  simp only [step, hin, hw]

/-- What a command answers, with other events still to come. -/
def withInput (events : List HostEvent) : Result → Result
  | .next t => .next { t with input := events }
  | .fault f => .fault f
  | .refused r => .refused r

theorem immediate_withInput (events : List HostEvent) (h : Immediate s i t) :
    Immediate { s with input := events } i { t with input := events } := by
  cases h with
  | refused h => exact .refused h
  | noIndex h => exact .noIndex h
  | lookedUp h => exact .lookedUp (s := { s with input := events }) h
  | opened hs hi => exact .opened (s := { s with input := events }) hs hi
  | cleared hs => exact .cleared hs
  | raised hs h =>
    refine .raised (s := { s with input := events }) hs ?_
    cases h with
    | abt => exact .abt
    | end_ hd hc => exact .end_ hd hc
    | put hd hk => exact .put hd hk
  | taken hs h =>
    refine .taken (s := { s with input := events }) hs ?_
    cases h with
    | encode hd hc => exact .encode (s := { s with input := events }) hd hc
    | decode hd hok hc => exact .decode (s := { s with input := events }) hd hok hc

theorem reachesFlush_withInput (events : List HostEvent) {force : Bool} {e : Engine} {rest : Engine → Engine}
    (h : ReachesFlush s i force e rest) : ReachesFlush { s with input := events } i force e rest := by
  cases h with
  | putEncode hs hd hc => exact .putEncode (s := { s with input := events }) hs hd hc
  | putDecode hs hd hok hc => exact .putDecode (s := { s with input := events }) hs hd hok hc
  | endEncode hs hd => exact .endEncode (s := { s with input := events }) hs hd
  | endDecode hs hd hc => exact .endDecode (s := { s with input := events }) hs hd hc

theorem flush_finish_withInput (events : List HostEvent) (force : Bool) (s : State) (e : Engine)
    (rest : Engine → Engine) :
    ((flush force (({ s with input := events } : State).setEng e)).finish fun u => completed u (rest u.eng)) =
      withInput events ((flush force (s.setEng e)).finish fun u => completed u (rest u.eng)) := by
  have hdue : flushDue force (({ s with input := events } : State).setEng e) = flushDue force (s.setEng e) := rfl
  have hreply : (({ s with input := events } : State).setEng e).sinkReply = (s.setEng e).sinkReply := rfl
  rw [flush_eq, flush_eq, hdue, hreply]
  cases flushDue force (s.setEng e) <;> cases (s.setEng e).sinkReply <;> rfl

/-- A command leaves the host's events alone. -/
theorem exec_withInput (events : List HostEvent) (i : Instr) (s : State) :
    exec i { s with input := events } = withInput events (exec i s) := by
  obtain ⟨t, ht⟩ | ⟨force, e, rest, hf⟩ := immediate_or_reachesFlush i s
  · rw [exec_of_immediate ht, exec_of_immediate (immediate_withInput events ht)]
    rfl
  · rw [exec_of_reachesFlush hf, exec_of_reachesFlush (reachesFlush_withInput events hf), flush_finish_withInput]

/-! ### Scripts -/

theorem step_commands_cons (hi : WellFormed i) (script : List Instr) (s : State) :
    step { s with input := commands (i :: script) } = withInput (commands script) (exec i { s with input := [] }) := by
  rw [step_of_command (events := commands script) rfl (decode_encode hi), ← exec_withInput]

/-- The steps of a script are its commands in order, by induction on the script. -/
theorem runSteps_commands {script : List Instr} (hwf : ∀ i ∈ script, WellFormed i) (s : State) :
    runSteps script.length { s with input := commands script } = execAll script { s with input := [] } := by
  induction script generalizing s with
  | nil => rfl
  | cons i script ih =>
    rw [List.length_cons, runSteps, step_commands_cons (hwf i List.mem_cons_self), execAll]
    cases hres : exec i { s with input := [] } with
    | next t =>
      have hin : t.input = [] := (completes_of_exec hres).input
      have hself : { t with input := [] } = t := by rw [← hin]
      simpa only [withInput, hself] using ih (fun j hj => hwf j (List.mem_cons_of_mem i hj)) t
    | fault f => rfl
    | refused r => rfl

/-! ### A step -/

theorem step_takes_one_event (h : step s = .next t) :
    t.input = s.input.tail ∧
    match s.input with
    | .command _ :: _ => ∃ rsp, t.responses = s.responses ++ [rsp]
    | .reset :: _ => t.responses = s.responses
    | [] => t = s := by
  obtain ⟨hin, rfl⟩ | ⟨events, hin, rfl⟩ | ⟨w, events, r, hin, -, rfl⟩ | ⟨w, events, i, hin, -, hexec⟩ := step_next h
  · rw [hin]
    exact ⟨rfl, rfl⟩
  · rw [hin]
    exact ⟨rfl, rfl⟩
  · rw [hin]
    exact ⟨rfl, _, rfl⟩
  · rw [hin]
    exact ⟨(completes_of_exec hexec).input, (completes_of_exec hexec).responses⟩

theorem step_cfg (h : step s = .next t) : t.cfg = s.cfg := by
  obtain ⟨-, rfl⟩ | ⟨_, -, rfl⟩ | ⟨_, _, _, -, -, rfl⟩ | ⟨_, _, _, -, -, hexec⟩ := step_next h
  · rfl
  · rfl
  · rfl
  · exact (completes_of_exec hexec).cfg

theorem step_sink (h : step s = .next t) : t.sink = s.sink ∨ ∃ burst, t.sink = s.sink ++ [burst] := by
  obtain ⟨-, rfl⟩ | ⟨_, -, rfl⟩ | ⟨_, _, _, -, -, rfl⟩ | ⟨_, _, _, -, -, hexec⟩ := step_next h
  · exact .inl rfl
  · exact .inl rfl
  · exact .inl rfl
  · exact (completes_of_exec hexec).sink

/-- In FAULT a command does nothing to the engine and the sink, unless it is CLR (60_exceptions.md R121). -/
theorem completes_of_fault (hs : s.eng.state = .fault) (h : Completes s i t) :
    t.sink = s.sink ∧ t.sinkAsked = s.sinkAsked ∧ (t.eng = s.eng ∨ i = .clr ∧ t.eng = Engine.reset) := by
  cases h with
  | immediate h =>
    cases h with
    | refused | noIndex | lookedUp => exact ⟨rfl, rfl, .inl rfl⟩
    | cleared => exact ⟨rfl, rfl, .inr ⟨rfl, rfl⟩⟩
    | opened hidle => simp [hs] at hidle
    | raised hrun | taken hrun => simp [hs] at hrun
  | unflushed h | burst h | failed h =>
    have hrun := h.run
    simp [hs] at hrun

end Sys2Proof.Proofs.Steps
end

section
namespace Sys2Proof.Proofs

open Sys2Proof Sys2Proof.Machine Sys2Proof.Proofs.WordRows Sys2Proof.Proofs.WordsAndCommands Sys2Proof.Proofs.Effects
  Sys2Proof.Proofs.Steps

/-- Settles O6: the word of a well-formed command decodes to it, and a step takes the event and executes. -/
theorem stepRunsTheDecodedCommand : Obligations.StepRunsTheDecodedCommand := fun _ _ _ hi hin =>
  step_of_command hin (decode_encode hi)

/-- Settles O9: by the host's next event. -/
theorem everyCommandHasOneResponse : Obligations.EveryCommandHasOneResponse := fun _ _ => step_takes_one_event

/-- Settles O10: by induction on the script, since a command leaves the events still to come alone. -/
theorem aScriptExecutesItsCommandsInOrder : Obligations.AScriptExecutesItsCommandsInOrder := fun s _ hwf =>
  runSteps_commands hwf s

/-- Settles O34: in FAULT every command but CLR is refused or a lookup. -/
theorem faultIsLeftOnlyByClrOrReset : Obligations.FaultIsLeftOnlyByClrOrReset := by
  intro s t hs h
  obtain ⟨-, rfl⟩ | ⟨events, hin, rfl⟩ | ⟨w, events, r, hin, -, rfl⟩ | ⟨w, events, i, hin, hw, hexec⟩ := step_next h
  · exact ⟨rfl, rfl, .inl rfl⟩
  · exact ⟨rfl, rfl, .inr ⟨rfl, events, .inl hin⟩⟩
  · exact ⟨rfl, rfl, .inl rfl⟩
  · obtain ⟨hsink, hasked, heng⟩ := completes_of_fault (s := { s with input := events }) hs (completes_of_exec hexec)
    refine ⟨hsink, hasked, heng.imp_right ?_⟩
    rintro ⟨rfl, hreset⟩
    obtain ⟨rfl, -⟩ := encode_of_decode hw
    exact ⟨hreset, events, .inr hin⟩

/-- Settles O40: by the host's next event, and for a command by the ways it completes. -/
theorem theSinkStreamIsNeverRetracted : Obligations.TheSinkStreamIsNeverRetracted := fun _ _ => step_sink

/-- Settles O41: no step writes the configuration, from which K and both tables are read. -/
theorem noStepChangesTheTables : Obligations.NoStepChangesTheTables := by
  intro s t h
  rw [step_cfg h]
  exact ⟨rfl, fun _ => rfl, fun _ => rfl⟩

end Sys2Proof.Proofs
end

section
/-! PUT in the decode direction (42_decode.md R98): the four checks in their order, what an accepted character does to ACC
and PADS, the group it may complete, and the statements O23 to O25 assembled from them. -/
namespace Sys2Proof.Proofs.DecodePut

open Sys2Proof Sys2Proof.Machine Sys2Proof.Proofs.ChunkRule Sys2Proof.Proofs.Effects

variable {s : State} {cfg : Config} {e : Engine} {c : Byte} {i : Index}

/-! ### The comparator beside the table -/

theorem isPad_iff : isPad c = true ↔ c = padSym := beq_iff_eq

@[simp] theorem isPad_padSym : isPad padSym = true := rfl

theorem isPad_of_ne (h : c ≠ padSym) : isPad c = false := beq_false_of_ne h

/-- The entry of a symbol is its index, zero extended (30_encoding.md R77). -/
theorem nia_zero_append (i : Index) : nia (0#2 ++ i) = false := by
  rw [nia, BitVec.getLsbD_append]
  rfl

@[simp] theorem entryIndex_zero_append (i : Index) : entryIndex (0#2 ++ i) = i := BitVec.extractLsb'_append_eq_right

/-! ### The four checks -/

theorem checkChar_of_bad (hn : nia (decLut cfg c) = true) (hc : c ≠ padSym) :
    checkChar cfg e c = some .invalidSymbol := by
  simp [checkChar, hn, isPad_of_ne hc]

/-- Checks 2 to 4 are made of a character that is a symbol or PAD. -/
theorem checkChar_of_not_bad (hc : nia (decLut cfg c) = false ∨ c = padSym) :
    checkChar cfg e c =
      if e.fin then some .invalidPadding
      else if isPad c then if e.cnt < 2#2 then some .invalidPadding else none
      else if 0#2 < e.pads then some .invalidPadding else none := by
  have hpass : ¬ (nia (decLut cfg c) && !isPad c) = true := by
    obtain h | rfl := hc
    · simp [h]
    · simp
  simp only [checkChar, hpass, Bool.false_eq_true, if_false]

/-! ### An accepted character -/

theorem takeChar_of_symbol (hc : c ≠ padSym) (hd : decLut cfg c = 0#2 ++ i) :
    takeChar cfg c e = { e with acc := placeIndex e.cnt i e.acc } := by
  simp [takeChar, isPad_of_ne hc, hd]

theorem takeChar_padSym (cfg : Config) (e : Engine) : takeChar cfg padSym e = { e with pads := e.pads + 1#2 } := rfl

theorem checkChar_of_symbol (hc : c ≠ padSym) (hd : decLut cfg c = 0#2 ++ i) (hfin : e.fin = false)
    (hpads : e.pads = 0#2) : checkChar cfg e c = none := by
  rw [checkChar_of_not_bad (.inl (hd ▸ nia_zero_append i))]
  simp [hfin, isPad_of_ne hc, hpads]

theorem checkChar_padSym (hfin : e.fin = false) (hcnt : ¬ e.cnt < 2#2) : checkChar cfg e padSym = none := by
  rw [checkChar_of_not_bad (.inr rfl)]
  simp [hfin, hcnt]

/-! ### The group completed -/

/-- A PUT that completes a group with at most two padding characters is due to burst when OBUF then holds a chunk. -/
theorem endsWithFlush_putDecode (hs : s.eng.state = .run) (hd : s.eng.dir = .decode)
    (hok : checkChar s.cfg s.eng c = none) (hc : s.eng.cnt = 3#2) (hpads : (takeChar s.cfg c s.eng).pads ≠ 3#2) :
    EndsWithFlush (exec (.put c) s) s
      (3 * s.cfg.chunkGroups.toNat ≤ (closeGroup (takeChar s.cfg c s.eng)).obuf.length)
      (closeGroup (takeChar s.cfg c s.eng)) countItem := by
  rw [exec_of_reachesFlush (.putDecode hs hd hok (by simp [hc]))]
  refine endsWithFlush_finish (fun _ => rfl) ?_ ?_
  · exact (FaultEntry.faulted_closeGroup _ _).trans (FaultEntry.faulted_takeChar _ _ _ _)
  · have hpos : 0 < (closeGroup (takeChar s.cfg c s.eng)).obuf.length := by
      have := decGroup_length (takeChar s.cfg c s.eng).pads (takeChar s.cfg c s.eng).acc
      simp only [closeGroup_obuf, List.length_append]
      bv_omega
    have hcap : ocap s.cfg (closeGroup (takeChar s.cfg c s.eng)).dir = 3 * s.cfg.chunkGroups.toNat := by
      simp [ocap, hd]
    simp only [flushDue_iff, setEng_eng, setEng_cfg, hpos, hcap, Bool.false_eq_true, false_or, true_and]

end Sys2Proof.Proofs.DecodePut
end

section
namespace Sys2Proof.Proofs

open Sys2Proof Sys2Proof.Machine Sys2Proof.Proofs.Effects Sys2Proof.Proofs.DecodePut

/-- Settles O23: the check that fires, and the raise it leads to. -/
theorem putDecodeChecks : Obligations.PutDecodeChecks := by
  intro s c hs hd
  refine ⟨fun hn hc => exec_of_raises hs (.put hd (checkChar_of_bad hn hc)), fun hnot => ?_⟩
  refine ⟨fun hfin => ?_, fun hfin hc hcnt => ?_, fun hfin hc hpads => ?_⟩ <;>
    refine exec_of_raises hs (.put hd ?_) <;> rw [checkChar_of_not_bad hnot]
  · simp [hfin]
  · simp [hfin, isPad_iff.mpr hc, hcnt]
  · simp [hfin, isPad_of_ne hc, hpads]

/-- Settles O24: a symbol passes the checks, and its index goes to the place of CNT. -/
theorem putDecodesASymbol : Obligations.PutDecodesASymbol := by
  intro s c i hs hd hc hdec hfin hpads
  have hok := checkChar_of_symbol (e := s.eng) hc hdec hfin hpads
  have htake := takeChar_of_symbol (e := s.eng) hc hdec
  have htaken (hcnt : s.eng.cnt < 3#2) := exec_of_takes hs (.decode hd hok hcnt)
  rw [htake] at htaken
  refine ⟨fun hcnt => ?_, fun hcnt => ?_, fun hcnt => ?_, ?_⟩
  · rw [htaken (by simp [hcnt]), hcnt]
    rfl
  · rw [htaken (by simp [hcnt]), hcnt]
    rfl
  · rw [htaken (by simp [hcnt]), hcnt]
    rfl
  · rintro hcnt g rfl e rfl
    have hclosed := endsWithFlush_putDecode hs hd hok hcnt (by simp [htake, hpads])
    rw [htake, hcnt] at hclosed
    simpa [closeGroup, decGroup, placeIndex, byte0, byte1, byte2, hpads, hfin] using hclosed

/-- Settles O25: PAD passes the checks at positions 2 and 3, and counts in PADS. -/
theorem putDecodesAPadding : Obligations.PutDecodesAPadding := by
  intro s hs hd hfin
  refine ⟨fun hcnt hpads => ?_, ?_⟩
  · have hok := checkChar_padSym (cfg := s.cfg) hfin (by simp [hcnt])
    have htaken := exec_of_takes hs (.decode hd hok (by simp [hcnt]))
    rw [takeChar_padSym, hpads, hcnt] at htaken
    exact htaken
  · rintro hcnt bytes e hbytes rfl
    have hok := checkChar_padSym (cfg := s.cfg) hfin (by simp [hcnt])
    have hclosed (hp : s.eng.pads + 1#2 ≠ 3#2) := endsWithFlush_putDecode hs hd hok hcnt hp
    rw [takeChar_padSym] at hclosed
    obtain ⟨hpads, rfl⟩ | ⟨hpads, rfl⟩ := hbytes <;>
      simpa [closeGroup, decGroup, byte0, byte1, padSym, hpads] using hclosed (by simp [hpads])

end Sys2Proof.Proofs
end

section
/-! The lookup tables as inverses, the commands that read them, and the registers at reset (40_alphabet_lut.md R87,
10_state.md R18, R39), with the statements O11, O13, O14 and O16. -/
namespace Sys2Proof.Proofs.TableInverses

open Sys2Proof Sys2Proof.Machine Sys2Proof.Proofs.LookupTables Sys2Proof.Proofs.LookupCommands
  Sys2Proof.Proofs.DecodePut

variable {c : Config} {x : Byte} {i : Index}

theorem indexOf_symbolOf (hnd : c.alphabet.toList.Nodup) (i : Index) : indexOf c (symbolOf c i) = some i := by
  rw [indexOf_eq_some, symbolOf, decLut_encLut hnd]
  exact ⟨nia_zero_append i, entryIndex_zero_append i⟩

theorem indexOf_eq_some_iff (hnd : c.alphabet.toList.Nodup) : indexOf c x = some i ↔ symbolOf c i = x := by
  constructor
  · intro h
    have hx : x ∈ c.alphabet.toList := by
      by_contra hx
      have hn := (indexOf_eq_some.mp h).1
      rw [decLut_of_not_mem hx] at hn
      contradiction
    obtain ⟨j, rfl⟩ := mem_alphabet_iff_exists_encLut.mp hx
    have hj := (indexOf_symbolOf hnd j).symm.trans h
    rw [Option.some.inj hj, symbolOf]
  · rintro rfl
    exact indexOf_symbolOf hnd i

theorem classOf_symbolOf (hnd : c.alphabet.toList.Nodup) (i : Index) : classOf c (symbolOf c i) = .sym i :=
  classOf_eq_sym.mpr (indexOf_symbolOf hnd i)

theorem nia_eq_false_iff (hnd : c.alphabet.toList.Nodup) : nia (decLut c x) = false ↔ x ∈ c.alphabet.toList := by
  constructor
  · intro h
    by_contra hx
    rw [decLut_of_not_mem hx] at h
    contradiction
  · intro hx
    obtain ⟨i, rfl⟩ := mem_alphabet_iff_exists_encLut.mp hx
    rw [decLut_encLut hnd]
    exact nia_zero_append i

/-! ### The commands on the tables -/

theorem answer_inj {s : State} {r r' : RspWord} (h : (s.answer r) = s.answer r') : r = r' := by
  simpa [State.answer] using h

theorem exec_idx_encLut (s : State) (hnd : s.cfg.alphabet.toList.Nodup) (i : Index) :
    exec (.idx (encLut s.cfg i)) s = .next (s.answer (0x0#4 ++ (0#2 ++ i))) := by
  have h := exec_idx_of_not_nia (char := encLut s.cfg i) (s := s) (by rw [decLut_encLut hnd, nia_zero_append])
  rwa [decLut_encLut hnd] at h

theorem eq_encLut_of_exec_sym {s : State} (h : exec (.sym (0#2 ++ i)) s = .next (s.answer (0x0#4 ++ x))) :
    x = encLut s.cfg i := by
  have hidx : (0#2 ++ i).extractLsb' 6 2 = 0#2 := BitVec.extractLsb'_append_eq_left
  rw [exec_sym_of_index hidx] at h
  have hdata : (0#2 ++ i).extractLsb' 0 6 = i := BitVec.extractLsb'_append_eq_right
  have happ := answer_inj (Host.Outcome.next.inj h)
  rw [hdata] at happ
  calc x = (0x0#4 ++ x).extractLsb' 0 8 := BitVec.extractLsb'_append_eq_right.symm
    _ = encLut s.cfg i := by rw [← happ]; exact BitVec.extractLsb'_append_eq_right

/-- The code 0 of an answer OK is not the code of 180. -/
theorem ok_ne_notInAlphabet (data : Byte) : 0x0#4 ++ data ≠ 0x180#12 := by
  intro h
  have hcode := congrArg (BitVec.extractLsb' 8 4) h
  rw [BitVec.extractLsb'_append_eq_left] at hcode
  contradiction

theorem exec_idx_ok_iff {s : State} (hnd : s.cfg.alphabet.toList.Nodup) :
    x ∈ s.cfg.alphabet.toList ↔ ∃ data : Byte, exec (.idx x) s = .next (s.answer (0x0#4 ++ data)) := by
  rw [← nia_eq_false_iff hnd]
  refine ⟨fun h => ⟨_, exec_idx_of_not_nia h⟩, fun ⟨data, h⟩ => Bool.eq_false_iff.mpr fun hn => ?_⟩
  rw [exec_idx_of_nia hn] at h
  exact ok_ne_notInAlphabet data (answer_inj (Host.Outcome.next.inj h)).symm

/-! ### Reset -/

/-- UNPADDED, IGN_WS and the reserved bits of CFG are 0 (10_state.md R34). -/
theorem sr1_upper_half (s : State) : (sr1 s).extractLsb' 16 16 = 0#16 := BitVec.extractLsb'_append_eq_left

theorem decLut_of_alphabet_eq {c c' : Config} (h : c.alphabet = c'.alphabet) (x : Byte) : decLut c x = decLut c' x := by
  rw [decLut, decLut, h]

end Sys2Proof.Proofs.TableInverses
end

section
namespace Sys2Proof.Proofs

open Sys2Proof Sys2Proof.Machine Sys2Proof.Proofs.LookupTables Sys2Proof.Proofs.LookupCommands
  Sys2Proof.Proofs.TableInverses

/-- Settles O14: DEC_LUT inverts ENC_LUT in an alphabet without repetition. -/
theorem theTablesAreInverse : Obligations.TheTablesAreInverse := by
  rintro c ⟨hnd, -, -⟩
  refine ⟨indexOf_symbolOf hnd, fun x i => (indexOf_eq_some_iff hnd).mp, fun x => ?_, ?_⟩
  · exact exists_congr fun i => classOf_eq_sym.trans ((indexOf_eq_some_iff hnd).trans eq_comm)
  · rintro s i x rfl h
    rw [eq_encLut_of_exec_sym h]
    exact exec_idx_encLut s hnd i

/-- Settles O16: the 64 octets are the alphabet. -/
theorem idxAnswersOkForSixtyFourCharacters : Obligations.IdxAnswersOkForSixtyFourCharacters := by
  rintro s ⟨hnd, -, -⟩
  refine ⟨s.cfg.alphabet.toList, hnd, s.cfg.alphabet.length_toList, fun x => ⟨exec_idx_ok_iff hnd, fun hx => ?_, fun hx => ?_⟩⟩
  · exact exec_idx_of_not_nia ((nia_eq_false_iff hnd).mpr hx)
  · refine exec_idx_of_nia ?_
    rw [decLut_of_not_mem hx]
    rfl

/-- Settles O11: the reset registers, and CFG whatever K is. -/
theorem registersAfterReset : Obligations.RegistersAfterReset :=
  ⟨rfl, rfl, rfl, rfl, rfl, rfl, rfl, rfl, rfl, rfl, rfl, rfl, StatusPort.sr1_chunkGroups_field _, sr1_upper_half _⟩

/-- Settles O13: the 256 entries of the table of R17's alphabet, which do not depend on K. -/
theorem decLutContents : Obligations.DecLutContents := by
  intro x
  have hk : decLut State.reset.cfg x = decLut ⟨i2pAlphabet, 0#16⟩ x := decLut_of_alphabet_eq rfl x
  rw [hk]
  revert x
  decide +kernel

end Sys2Proof.Proofs
end

section
/-! The state invariants of 10_state.md R38 as facts of every command: where a command leaves the engine between two
groups, inside one, or at the end of a stream, and what the chunk rule needs of OBUF; with the statements O36, O38, O45,
O46 and O47. -/
namespace Sys2Proof.Proofs.Invariants

open Sys2Proof Sys2Proof.Machine Sys2Proof.Proofs.EncodeCommands Sys2Proof.Proofs.DecodePut Sys2Proof.Proofs.Effects

variable {s t : State} {c : Config} {e g : Engine} {i : Instr} {force : Bool} {rest : Engine → Engine} {x : Byte}

/-! ### The capacity of OBUF -/

theorem ocap_pos (hk : c.chunkGroups ≠ 0#16) (d : Dir) : 0 < ocap c d := by
  have hpos : 0 < c.chunkGroups.toNat := Nat.pos_of_ne_zero fun h => hk (BitVec.eq_of_toNat_eq h)
  cases d <;> simp only [ocap] <;> omega

/-- Where no burst is due OBUF is below its capacity. -/
theorem obuf_lt_ocap_of_not_due (hk : s.cfg.chunkGroups ≠ 0#16) (hdue : flushDue force (s.setEng e) = false) :
    e.obuf.length < ocap s.cfg e.dir := by
  have hcap := ocap_pos hk e.dir
  have hnot := mt (flushDue_iff force (s.setEng e)).mpr (Bool.eq_false_iff.mp hdue)
  simp only [setEng_eng, setEng_cfg] at hnot
  by_contra hge
  exact hnot ⟨by omega, .inr (by omega)⟩

/-- Where a forced flush performs no burst OBUF is empty. -/
theorem obuf_eq_nil_of_not_due (hdue : flushDue true (s.setEng e) = false) : e.obuf = [] :=
  not_not.mp (mt (flushDue_true_iff (s.setEng e)).mpr (Bool.eq_false_iff.mp hdue))

/-! ### The engine at reset, at the opening and the end of a stream, and in FAULT -/

theorem inv_reset (hk : c.chunkGroups ≠ 0#16) : Engine.reset.Inv c := by
  constructor <;> simp [Engine.reset, ocap_pos hk]

theorem inv_opened (hk : c.chunkGroups ≠ 0#16) (d : Dir) : { Engine.reset with state := .run, dir := d }.Inv c := by
  constructor <;> simp [Engine.reset, ocap_pos hk]

theorem inv_faulted (hk : c.chunkGroups ≠ 0#16) (kind : ErrKind) (e : Engine) : (e.faulted kind).Inv c := by
  constructor <;> simp [Engine.faulted, ocap_pos hk]

theorem inv_done (hk : c.chunkGroups ≠ 0#16) (hs : g.state = .done) (herr : g.err = none) (hpos : g.errpos = 0#64)
    (hacc : g.acc = 0#24) (hcnt : g.cnt = 0#2) (hpads : g.pads = 0#2) (hfin : g.fin = false) (hobuf : g.obuf = []) :
    g.Inv c := by
  constructor <;> simp [*, ocap_pos hk]

/-- A stream between two groups. -/
theorem inv_between_groups (hs : g.state = .run) (herr : g.err = none) (hpos : g.errpos = 0#64) (hacc : g.acc = 0#24)
    (hcnt : g.cnt = 0#2) (hpads : g.pads = 0#2) (hobuf : g.obuf.length < ocap c g.dir)
    (henc : g.dir = .encode → g.fin = false ∧ g.obuf.length % 4 = 0)
    (hdec : g.dir = .decode → g.fin = false → g.obuf.length % 3 = 0) : g.Inv c := by
  constructor <;> simp +contextual [*]

/-! ### An open stream -/

theorem err_of_run (h : e.Inv c) (hs : e.state = .run) : e.err = none := by
  have := h.err
  simpa [hs] using this

theorem errpos_of_run (h : e.Inv c) (hs : e.state = .run) : e.errpos = 0#64 := h.errpos (by simp [hs])

/-- Between two groups ACC and PADS are 0. -/
theorem acc_eq_zero_of_cnt_eq_zero (h : e.Inv c) (hc : e.cnt = 0#2) : e.acc = 0#24 ∧ e.pads = 0#2 := by
  refine ⟨BitVec.eq_of_getLsbD_eq fun j hj => ?_, ?_⟩
  · have hbits : e.unfilledBits = 24 := by cases hd : e.dir <;> simp [Engine.unfilledBits, Engine.filled, hd, hc]
    simpa using h.acc j (hbits ▸ hj)
  · cases hd : e.dir with
    | encode => exact (h.encode hd).2.1
    | decode =>
      obtain ⟨hle, hone⟩ := h.decode hd
      by_contra hne
      have hcnt := hone (by bv_omega)
      simp [hc] at hcnt

/-- What a character that passes the four checks says of the registers and of itself. -/
theorem checkChar_eq_none (h : checkChar c e x = none) :
    (nia (decLut c x) = false ∨ x = padSym) ∧ e.fin = false ∧ (x = padSym → ¬ e.cnt < 2#2) ∧
      (x ≠ padSym → e.pads = 0#2) := by
  have hnot : nia (decLut c x) = false ∨ x = padSym := by
    by_contra hbad
    simp only [not_or, Bool.not_eq_false] at hbad
    rw [checkChar_of_bad hbad.1 hbad.2] at h
    contradiction
  rw [checkChar_of_not_bad hnot] at h
  refine ⟨hnot, ?_⟩
  cases hfin : e.fin with
  | true => simp [hfin] at h
  | false =>
    refine ⟨rfl, fun hx hc => ?_, fun hx => ?_⟩
    · simp [hfin, hx, hc] at h
    · by_contra hp
      have hpos : 0#2 < e.pads := by bv_omega
      simp [hfin, isPad_of_ne hx, hpos] at h

/-- PADS after an accepted character: PAD counts and comes second at most. -/
theorem takeChar_pads_le_two (h : e.Inv c) (hd : e.dir = .decode) : (takeChar c x e).pads.toNat ≤ 2 := by
  have hle : e.pads.toNat ≤ 1 := by simpa using BitVec.le_def.mp (h.decode hd).1
  unfold takeChar
  split
  · simp only [BitVec.toNat_add, BitVec.toNat_ofNat]
    omega
  · exact Nat.le_succ_of_le hle

theorem inv_taken_encode (h : e.Inv c) (hs : e.state = .run) (hd : e.dir = .encode) (hc : e.cnt < 2#2) :
    (countItem { e with acc := placeByte e.cnt x e.acc, cnt := e.cnt + 1#2 }).Inv c := by
  obtain ⟨hcnt, hpads, hfin, hmod⟩ := h.encode hd
  have hsucc : (e.cnt + 1#2).toNat = e.cnt.toNat + 1 := by bv_omega
  constructor <;> simp only [countItem]
  case acc =>
    intro j hj
    simp only [Engine.unfilledBits, Engine.filled, hd, hpads, hsucc] at hj
    rw [placeByte_low (by simp at hj; omega)]
    refine h.acc j ?_
    simp only [Engine.unfilledBits, Engine.filled, hd, hpads]
    simp at hj ⊢
    omega
  case encode => exact fun _ => ⟨by bv_omega, hpads, hfin, hmod⟩
  case obuf => exact h.obuf
  all_goals simp [hs, hd, hfin, err_of_run h hs, errpos_of_run h hs]

/-- A symbol taken in: no PAD precedes it in its group. -/
theorem inv_taken_symbol (h : e.Inv c) (hs : e.state = .run) (hd : e.dir = .decode) (hfin : e.fin = false)
    (hpads : e.pads = 0#2) (hc : e.cnt < 3#2) (j : Index) :
    (countItem { e with acc := placeIndex e.cnt j e.acc, cnt := e.cnt + 1#2 }).Inv c := by
  have hsucc : (e.cnt + 1#2).toNat = e.cnt.toNat + 1 := by bv_omega
  constructor <;> simp only [countItem]
  case acc =>
    intro j hj
    simp only [Engine.unfilledBits, Engine.filled, hd, hpads, hsucc] at hj
    rw [placeIndex_low (by simp at hj; omega)]
    refine h.acc j ?_
    simp only [Engine.unfilledBits, Engine.filled, hd, hpads]
    simp at hj ⊢
    omega
  case obuf => exact h.obuf
  case groups => exact h.groups
  all_goals simp [hs, hd, hfin, hpads, err_of_run h hs, errpos_of_run h hs]

/-- A PAD taken in at position 2, the only one where it does not complete its group. -/
theorem inv_taken_padding (h : e.Inv c) (hs : e.state = .run) (hd : e.dir = .decode) (hfin : e.fin = false)
    (hc : e.cnt = 2#2) : (countItem { e with pads := e.pads + 1#2, cnt := e.cnt + 1#2 }).Inv c := by
  have hpads : e.pads = 0#2 := by
    obtain ⟨hle, hone⟩ := h.decode hd
    by_contra hne
    have hcnt := hone (by bv_omega)
    simp [hc] at hcnt
  constructor <;> simp only [countItem]
  case acc =>
    intro j hj
    refine h.acc j ?_
    simpa [Engine.unfilledBits, Engine.filled, hd, hpads, hc] using hj
  case obuf => exact h.obuf
  case groups => exact h.groups
  all_goals simp [hs, hd, hfin, hpads, hc, err_of_run h hs, errpos_of_run h hs]

theorem inv_taken (h : s.eng.Inv s.cfg) (hs : s.eng.state = .run) (ht : Takes s x e) : (countItem e).Inv s.cfg := by
  cases ht with
  | encode hd hc => exact inv_taken_encode h hs hd hc
  | decode hd hok hc =>
    obtain ⟨-, hfin, hpad, hsym⟩ := checkChar_eq_none hok
    unfold takeChar
    by_cases hx : x = padSym
    · have hcnt : s.eng.cnt = 2#2 := by
        have := hpad hx
        bv_omega
      rw [isPad_iff.mpr hx]
      exact inv_taken_padding h hs hd hfin hcnt
    · rw [isPad_of_ne hx]
      exact inv_taken_symbol h hs hd hfin (hsym hx) hc _

/-! ### At the chunk rule -/

/-- OBUF at the chunk rule: whole groups, with which it does not exceed its capacity. -/
theorem obuf_le_ocap (h : s.eng.Inv s.cfg) (hf : ReachesFlush s i force e rest) :
    e.obuf.length ≤ ocap s.cfg e.dir := by
  have hlt := h.obuf
  cases hf with
  | putEncode hs hd hc =>
    obtain ⟨-, -, -, hmod⟩ := h.encode hd
    simp only [encClosed, hd, ocap, List.length_append, encGroup_length] at hlt ⊢
    omega
  | putDecode hs hd hok hc =>
    have hmod := h.groups hd (checkChar_eq_none hok).2.1
    simp only [closeGroup_obuf, closeGroup_dir, takeChar_obuf, takeChar_dir, hd, ocap, List.length_append,
      decGroup_length] at hlt ⊢
    omega
  | endEncode hs hd =>
    obtain ⟨-, -, -, hmod⟩ := h.encode hd
    obtain ⟨htail, -⟩ | ⟨htail, -⟩ := encTail_length s.cfg s.eng.cnt s.eng.acc
    · simp only [encTailed, hd, ocap, List.length_append, htail] at hlt ⊢
      omega
    · simpa [encTailed, htail] using hlt.le
  | endDecode => exact hlt.le

/-- What a command leaves that goes on from the chunk rule, with the OBUF the chunk rule leaves: empty after a burst, and
below its capacity without one. -/
theorem inv_rest (hk : s.cfg.chunkGroups ≠ 0#16) (h : s.eng.Inv s.cfg) (hf : ReachesFlush s i force e rest) {n : Counter}
    {o : List Byte} (ho : o = [] ∨ o = e.obuf ∧ force = false ∧ e.obuf.length < ocap s.cfg e.dir) :
    (rest { e with obuf := o, outcnt := n }).Inv s.cfg := by
  have herr := err_of_run h hf.run
  have hpos := errpos_of_run h hf.run
  cases hf with
  | putEncode hs hd hc =>
    obtain ⟨-, hpads, hfin, hmod⟩ := h.encode hd
    refine inv_between_groups hs herr hpos rfl rfl hpads ?_ ?_ ?_
    · obtain rfl | ⟨rfl, -, hlt⟩ := ho
      · exact ocap_pos hk _
      · exact hlt
    · refine fun _ => ⟨hfin, ?_⟩
      obtain rfl | ⟨rfl, -, -⟩ := ho <;> simp [countItem, encClosed, hmod]
    · intro hdec
      simp [countItem, encClosed, hd] at hdec
  | @putDecode x hs hd hok hc =>
    have hfin := (checkChar_eq_none hok).2.1
    refine inv_between_groups (by simpa [countItem] using hs) (by simpa [countItem] using herr)
      (by simpa [countItem] using hpos) rfl rfl rfl ?_ ?_ ?_
    · obtain rfl | ⟨rfl, -, hlt⟩ := ho
      · exact ocap_pos hk _
      · exact hlt
    · intro henc
      simp [countItem, hd] at henc
    · intro _ hopen
      have hmod := h.groups hd hfin
      simp only [countItem, closeGroup_fin, takeChar_fin, hfin, Bool.false_or, decide_eq_false_iff_not] at hopen
      have hpads : (takeChar s.cfg x s.eng).pads = 0#2 := by bv_omega
      obtain rfl | ⟨rfl, -, -⟩ := ho
      · rfl
      · simp [countItem, decGroup_length, hpads, hmod]
  | endEncode hs hd =>
    obtain ⟨-, hpads, hfin, -⟩ := h.encode hd
    obtain rfl | ⟨-, hforce, -⟩ := ho
    · exact inv_done hk rfl herr hpos rfl rfl hpads hfin rfl
    · contradiction
  | endDecode hs hd hc =>
    obtain ⟨hacc, hpads⟩ := acc_eq_zero_of_cnt_eq_zero h hc
    obtain rfl | ⟨-, hforce, -⟩ := ho
    · exact inv_done hk rfl herr hpos hacc hc hpads rfl rfl
    · contradiction

/-! ### The errors of a decode stream -/

theorem classOf_eq_padc_iff (hpad : padSym ∉ c.alphabet.toList) : classOf c x = .padc ↔ x = padSym := by
  constructor
  · intro h
    by_contra hx
    unfold classOf at h
    cases hi : indexOf c x <;> simp [hi, isPad_of_ne hx] at h
  · rintro rfl
    have hindex : indexOf c padSym = none := by
      rw [indexOf, LookupTables.decLut_of_not_mem hpad]
      rfl
    rw [classOf, hindex]
    rfl

/-- The four checks of R98 by the class of the character, as R96 step 1 has them. -/
theorem checkChar_eq (hpad : padSym ∉ c.alphabet.toList) (e : Engine) (x : Byte) :
    checkChar c e x =
      if classOf c x = .bad then some .invalidSymbol
      else if e.fin then some .invalidPadding
      else if classOf c x = .padc then if e.cnt < 2#2 then some .invalidPadding else none
      else if 0#2 < e.pads then some .invalidPadding else none := by
  by_cases hbad : classOf c x = .bad
  · obtain ⟨hn, hp⟩ := classOf_eq_bad.mp hbad
    have hx : x ≠ padSym := fun hx => by simp [hx] at hp
    rw [if_pos hbad, checkChar_of_bad hn hx]
  · have hnot : nia (decLut c x) = false ∨ x = padSym := by
      by_contra hor
      simp only [not_or, Bool.not_eq_false] at hor
      exact hbad (classOf_eq_bad.mpr ⟨hor.1, isPad_of_ne hor.2⟩)
    simp only [checkChar_of_not_bad hnot, hbad, if_false, classOf_eq_padc_iff hpad, isPad_iff]

theorem checkChar_eq_invalidSymbol_iff (hpad : padSym ∉ c.alphabet.toList) :
    checkChar c e x = some .invalidSymbol ↔ classOf c x = .bad := by
  rw [checkChar_eq hpad]
  repeat' split
  all_goals simp [*]

theorem checkChar_eq_invalidPadding_iff (hcfg : ValidConfig c) (h : e.Inv c) (hd : e.dir = .decode) :
    checkChar c e x = some .invalidPadding ↔ classOf c x ≠ .bad ∧
      (e.fin = true ∨ classOf c x = .padc ∧ e.cnt < 2#2 ∨ classOf c x ≠ .padc ∧ e.cnt = 3#2 ∧ e.pads = 1#2) := by
  obtain ⟨hle, hone⟩ := h.decode hd
  have hpads : 0#2 < e.pads ↔ e.cnt = 3#2 ∧ e.pads = 1#2 := by
    refine ⟨fun hpos => ?_, fun ⟨_, hp⟩ => by simp [hp]⟩
    have hp : e.pads = 1#2 := by bv_omega
    exact ⟨hone hp, hp⟩
  simp only [checkChar_eq hcfg.2.1, hpads]
  repeat' split
  all_goals simp [*]

/-- What PUT leaves in ERR in a decode stream: the error of its checks, or none but that of the chunk rule. -/
theorem err_of_putDecode (herr : s.eng.err = none) (h : putDecode x s = .next t) :
    t.eng.err = checkChar s.cfg s.eng x ∨ t.eng.err = some .ioError ∧ checkChar s.cfg s.eng x = none := by
  obtain ⟨k, hk, rfl⟩ | ⟨hok, -, rfl⟩ | ⟨hok, -, hflush⟩ := putDecode_next h
  · exact .inl hk.symm
  · exact .inl (by simp [hok, herr])
  · obtain ⟨-, rfl⟩ | ⟨-, -, rfl⟩ | ⟨-, -, rfl⟩ := flush_setEng_next hflush
    · exact .inl (by simp [hok, herr])
    · exact .inl (by simp [hok, herr, flushed])
    · exact .inr ⟨rfl, hok⟩

theorem err_of_end_decode (hs : s.eng.state = .run) (hd : s.eng.dir = .decode) (herr : s.eng.err = none)
    (h : exec .end_ s = .next t) : t.eng.err = some .invalidLength ↔ s.eng.cnt ≠ 0#2 := by
  obtain ⟨hnot, -⟩ | ⟨-, henc, -⟩ | ⟨-, -, hc, rfl⟩ | ⟨-, -, hc, hflush⟩ := execEnd_next h
  · exact absurd hs hnot
  · simp [hd] at henc
  · simp [hc]
  · obtain ⟨-, rfl⟩ | ⟨-, -, rfl⟩ | ⟨-, -, rfl⟩ := flush_setEng_next hflush <;> simp [hc, herr, decEnded, flushed]

/-! ### Bursts -/

/-- What joins the sink: nothing, or one burst of whole capacity or of an END, which OUTCNT counts. -/
theorem outcnt_of_completes (hinv : s.eng.Inv s.cfg) (h : Completes s i t) (hclr : i ≠ .clr) :
    (t.sink = s.sink ∧ t.eng.outcnt = s.eng.outcnt) ∨
    ∃ burst, t.sink = s.sink ++ [burst] ∧ s.sinkReply = .ok ∧
      t.eng.outcnt = s.eng.outcnt + BitVec.ofNat 64 burst.length ∧ 0 < burst.length ∧
      burst.length ≤ ocap s.cfg s.eng.dir ∧
      (i = .end_ ∧ t.eng.state = .done ∨ (∃ x, i = .put x) ∧ burst.length = ocap s.cfg s.eng.dir) := by
  cases h with
  | immediate hi =>
    refine .inl ⟨hi.sink.1, ?_⟩
    cases hi with
    | cleared => contradiction
    | taken hs ht => exact ht.keeps.2.2.2.2.1
    | refused | noIndex | lookedUp | opened | raised => rfl
  | unflushed hf =>
    obtain ⟨-, -, -, -, hout, -⟩ := hf.keeps
    obtain ⟨-, -, -, hrest, -⟩ := hf.rest_keeps _
    exact .inl ⟨rfl, hrest.trans hout⟩
  | failed => exact .inl ⟨rfl, rfl⟩
  | burst hf hdue hr =>
    obtain ⟨-, hdir, -, -, hout, -⟩ := hf.keeps
    obtain ⟨-, -, -, hrest, -⟩ := hf.rest_keeps (Engine.drained _)
    have hle := obuf_le_ocap hinv hf
    obtain ⟨hpos, hfull⟩ := (flushDue_iff _ _).mp hdue
    rw [hdir] at hle
    refine .inr ⟨_, rfl, hr, by rw [completed_eng, hrest, drained_outcnt, hout], hpos, hle, ?_⟩
    obtain ⟨hput, rfl, -⟩ | ⟨rfl, -, rfl | rfl⟩ := hf.put_or_end
    · refine .inr ⟨hput, Nat.le_antisymm hle ?_⟩
      simpa [hdir] using hfull
    · exact .inl ⟨rfl, rfl⟩
    · exact .inl ⟨rfl, rfl⟩

/-! ### Every command and every step -/

theorem inv_of_completes (hcfg : ValidConfig s.cfg) (h : s.eng.Inv s.cfg) (hc : Completes s i t) : t.eng.Inv s.cfg := by
  obtain ⟨-, -, hk⟩ := hcfg
  cases hc with
  | immediate hi =>
    cases hi with
    | refused | noIndex | lookedUp => exact h
    | opened hs hi =>
      rw [completed_eng, h.idle hs]
      exact inv_opened hk _
    | cleared => exact inv_reset hk
    | raised => exact inv_faulted hk _ _
    | taken hs ht => exact inv_taken h hs ht
  | @unflushed force e rest hf hdue =>
    have hself : rest e = rest { e with obuf := e.obuf, outcnt := e.outcnt } := rfl
    rw [completed_eng, hself]
    refine inv_rest hk h hf ?_
    cases force with
    | true => exact .inl (obuf_eq_nil_of_not_due hdue)
    | false => exact .inr ⟨rfl, rfl, obuf_lt_ocap_of_not_due hk hdue⟩
  | burst hf => exact inv_rest hk h hf (.inl rfl)
  | failed => exact inv_faulted hk _ _

theorem inv_of_exec (h : s.Inv) (hexec : exec i s = .next t) : t.Inv := by
  have hc := completes_of_exec hexec
  have heng := inv_of_completes h.cfg h.eng hc
  exact ⟨hc.cfg ▸ h.cfg, hc.cfg ▸ heng⟩

theorem inv_of_step (h : s.Inv) (hstep : step s = .next t) : t.Inv := by
  obtain ⟨-, rfl⟩ | ⟨events, -, rfl⟩ | ⟨_, events, _, -, -, rfl⟩ | ⟨_, events, i, -, -, hexec⟩ := step_next hstep
  · exact h
  · exact ⟨h.cfg, inv_reset h.cfg.2.2⟩
  · exact ⟨h.cfg, h.eng⟩
  · exact inv_of_exec (s := { s with input := events }) ⟨h.cfg, h.eng⟩ hexec

/-- The parameters of this hardware, whatever K is (00_scope.md R7, R9). -/
theorem validConfig_hardwareConfig : ValidConfig hardwareConfig := by
  refine ⟨(by decide +kernel : i2pAlphabet.toList.Nodup), (by decide +kernel : padSym ∉ i2pAlphabet.toList), ?_⟩
  have hlt := Config.freeChunkGroups.isLt
  simp only [hardwareConfig]
  bv_omega

theorem inv_state_reset : State.reset.Inv := ⟨validConfig_hardwareConfig, inv_reset validConfig_hardwareConfig.2.2⟩

end Sys2Proof.Proofs.Invariants
end

section
namespace Sys2Proof.Proofs

open Sys2Proof Sys2Proof.Machine Sys2Proof.Proofs.Effects Sys2Proof.Proofs.Invariants

/-- Settles O46: by the host's next event, and for a command by the ways it completes. -/
theorem stepKeepsTheInvariant : Obligations.StepKeepsTheInvariant := fun _ _ => inv_of_step

/-- Settles O45: the reset registers under the parameters of this hardware. -/
theorem invariantHoldsAtReset : Obligations.InvariantHoldsAtReset := inv_state_reset

/-- Settles O47: by induction on the steps that reach the state. -/
theorem reachableStatesMeetTheInvariant : Obligations.ReachableStatesMeetTheInvariant := by
  intro s hs
  induction hs with
  | start => exact ⟨inv_state_reset.cfg, inv_state_reset.eng⟩
  | step _ h ih => exact inv_of_step ih h

/-- Settles O36: ERR after PUT is the error of the four checks, if any, and after END that of the length. -/
theorem whenADecodeStreamRaisesEachError : Obligations.WhenADecodeStreamRaisesEachError := by
  intro s t hinv hs hd
  have herr := err_of_run hinv.eng hs
  refine ⟨fun c hexec => ?_, err_of_end_decode hs hd herr⟩
  rw [exec_put_of_decode hs hd] at hexec
  rw [← checkChar_eq_invalidSymbol_iff (e := s.eng) hinv.cfg.2.1, ← checkChar_eq_invalidPadding_iff hinv.cfg hinv.eng hd]
  obtain ht | ⟨ht, hok⟩ := err_of_putDecode herr hexec
  · refine ⟨by rw [ht], by rw [ht], fun hlen => ?_⟩
    obtain hk | hk := checkChar_kind (ht.symm.trans hlen) <;> contradiction
  · simp [ht, hok]

/-- Settles O38: by the ways a command completes, of which one performs a burst. -/
theorem outcntCountsAcceptedBursts : Obligations.OutcntCountsAcceptedBursts := fun _ _ _ hinv hexec =>
  outcnt_of_completes hinv.eng (completes_of_exec hexec)

end Sys2Proof.Proofs
end

section
/-! What the counters say of an open stream (10_state.md R37, R40): an item accepted moves INCNT and CNT together, a group
completed moves OUTCNT and OBUF together, and a burst moves items from OBUF to OUTCNT; with the statement O48. -/
namespace Sys2Proof.Proofs.Account

open Sys2Proof Sys2Proof.Machine Sys2Proof.Proofs.Effects Sys2Proof.Proofs.Invariants

variable {s t : State} {e : Engine} {i : Instr} {force : Bool} {rest : Engine → Engine} {x : Byte}

/-- The items the stream has put out so far, as OUTCNT counts them: those accepted and those in OBUF. -/
def putOut (e : Engine) : Counter := e.outcnt + BitVec.ofNat 64 e.obuf.length

/-- A burst moves the items of OBUF to OUTCNT. -/
@[simp] theorem putOut_drained (e : Engine) : putOut e.drained = putOut e := by simp [putOut]

theorem putOut_encClosed (b : Byte) (s : State) : putOut (encClosed b s) = putOut s.eng + 4#64 := by
  simp [putOut, encClosed, BitVec.ofNat_add, BitVec.add_assoc]

theorem putOut_closeGroup_takeChar (cfg : Config) (c : Byte) (e : Engine) :
    putOut (closeGroup (takeChar cfg c e)) = putOut e + BitVec.ofNat 64 (3 - (takeChar cfg c e).pads.toNat) := by
  simp [putOut, decGroup_length, BitVec.ofNat_add, BitVec.add_assoc]

/-- Outside an open stream the account says nothing. -/
theorem account_of_not_run (h : e.state ≠ .run) : e.Account := ⟨fun hs => absurd hs h, fun hs => absurd hs h⟩

theorem account_opened (d : Dir) : { Engine.reset with state := .run, dir := d }.Account :=
  ⟨fun _ _ => ⟨rfl, by simp⟩, fun _ _ => ⟨rfl, 0, rfl, Nat.zero_le _, by simp⟩⟩

theorem toNat_succ {n : Counter} (h : n.toNat + 1 < 2 ^ 64) : (n + 1#64).toNat = n.toNat + 1 := by
  bv_omega

/-- An item taken that does not complete its group. -/
theorem account_taken (hs : s.eng.state = .run) (ha : s.eng.Account) (hn : s.eng.incnt.toNat + 1 < 2 ^ 64)
    (h : Takes s x e) : (countItem e).Account := by
  have hsucc := toNat_succ hn
  cases h with
  | encode hd hc =>
    obtain ⟨hcnt, htotal⟩ := ha.encode hs hd
    refine ⟨fun _ _ => ⟨?_, ?_⟩, fun _ hdec => by simp [countItem, hd] at hdec⟩
    · simp only [countItem, hsucc]
      bv_omega
    · simp only [countItem, hsucc, htotal]
      congr 2
      bv_omega
  | decode hd hok hc =>
    obtain ⟨hcnt, p, hp, hle, htotal⟩ := ha.decode hs hd
    have hfloor : (s.eng.incnt.toNat + 1) / 4 = s.eng.incnt.toNat / 4 := by bv_omega
    refine ⟨fun _ henc => by simp [countItem, hd] at henc, fun _ _ => ⟨?_, p, ?_, ?_, ?_⟩⟩
    · simp only [countItem, takeChar_incnt, hsucc]
      bv_omega
    · simpa [Engine.shortfall, countItem] using hp
    · simpa only [countItem, takeChar_incnt, hsucc, hfloor] using hle
    · simpa only [countItem, takeChar_incnt, takeChar_outcnt, takeChar_obuf, hsucc, hfloor] using htotal

/-- A group completed, with the OBUF and OUTCNT the chunk rule leaves. -/
theorem account_rest (hinv : s.eng.Inv s.cfg) (ha : s.eng.Account) (hn : s.eng.incnt.toNat + 1 < 2 ^ 64)
    (hf : ReachesFlush s i force e rest) {o : List Byte} {n : Counter}
    (ho : n + BitVec.ofNat 64 o.length = putOut e) : (rest { e with obuf := o, outcnt := n }).Account := by
  have hsucc := toNat_succ hn
  cases hf with
  | @putEncode b hs hd hc =>
    obtain ⟨hcnt, htotal⟩ := ha.encode hs hd
    have hle := (hinv.encode hd).1
    have hlast : s.eng.incnt.toNat % 3 = 2 := by bv_omega
    refine ⟨fun _ _ => ⟨?_, ?_⟩, fun _ hdec => by simp [countItem, encClosed, hd] at hdec⟩
    · simp only [countItem, encClosed, hsucc]
      bv_omega
    · have hquot : 4 * ((s.eng.incnt.toNat + 1) / 3) = 4 * (s.eng.incnt.toNat / 3) + 4 := by omega
      simp only [countItem, encClosed, hsucc, hquot, BitVec.ofNat_add]
      rw [ho, putOut_encClosed, putOut, htotal]
  | @putDecode c hs hd hok hc =>
    obtain ⟨hcnt, p, hp, -, htotal⟩ := ha.decode hs hd
    have hfin := (checkChar_eq_none hok).2.1
    have hlast : s.eng.incnt.toNat % 4 = 3 := by bv_omega
    have hpads := takeChar_pads_le_two (x := c) hinv hd
    simp only [Engine.shortfall, hfin, Bool.false_eq_true, if_false] at hp
    refine ⟨fun _ henc => by simp [countItem, hd] at henc,
      fun _ _ => ⟨?_, (takeChar s.cfg c s.eng).pads.toNat, ?_, ?_, ?_⟩⟩
    · simp only [countItem, closeGroup_incnt, takeChar_incnt, hsucc]
      simp
      omega
    · simp only [Engine.shortfall, countItem, closeGroup_fin, takeChar_fin, hfin, Bool.false_or, decide_eq_true_eq]
      split <;> bv_omega
    · simp only [countItem, closeGroup_incnt, takeChar_incnt, hsucc]
      omega
    · have hquot : 3 * ((s.eng.incnt.toNat + 1) / 4) - (takeChar s.cfg c s.eng).pads.toNat =
          3 * (s.eng.incnt.toNat / 4) - p + (3 - (takeChar s.cfg c s.eng).pads.toNat) := by omega
      simp only [countItem, closeGroup_incnt, takeChar_incnt, hsucc, hquot, BitVec.ofNat_add]
      rw [ho, putOut_closeGroup_takeChar, putOut, htotal]
  | endEncode => exact account_of_not_run (by simp [encEnded])
  | endDecode => exact account_of_not_run (by simp [decEnded])

theorem account_of_completes (hinv : s.eng.Inv s.cfg) (ha : s.eng.Account) (hn : s.eng.incnt.toNat + 1 < 2 ^ 64)
    (h : Completes s i t) : t.eng.Account := by
  cases h with
  | immediate hi =>
    cases hi with
    | refused | noIndex | lookedUp => exact ha
    | opened hs =>
      rw [completed_eng, hinv.idle hs]
      exact account_opened _
    | cleared | raised => exact account_of_not_run (by simp)
    | taken hs ht => exact account_taken hs ha hn ht
  | unflushed hf => exact account_rest hinv ha hn hf rfl
  | burst hf => exact account_rest hinv ha hn hf (putOut_drained _)
  | failed => exact account_of_not_run (by simp)

end Sys2Proof.Proofs.Account
end

section
namespace Sys2Proof.Proofs

open Sys2Proof Sys2Proof.Machine Sys2Proof.Proofs.Effects Sys2Proof.Proofs.Account

/-- Settles O48: by the host's next event, and for a command by the ways it completes. -/
theorem stepKeepsTheAccount : Obligations.StepKeepsTheAccount := by
  intro s t hinv ha hn h
  obtain ⟨-, rfl⟩ | ⟨events, -, rfl⟩ | ⟨_, events, _, -, -, rfl⟩ | ⟨_, events, i, -, -, hexec⟩ := step_next h
  · exact ha
  · exact account_of_not_run (by simp)
  · exact ha
  · exact account_of_completes (s := { s with input := events }) hinv.eng ha hn (completes_of_exec hexec)

end Sys2Proof.Proofs
end

section
/-! K and the transform (41_encode.md R95, 20_memory.md R54): two engines alike but for K, OBUF and OUTCNT take the same
way through a command, so they answer alike and put out the same items; with the statement O44. -/
namespace Sys2Proof.Proofs.ChunkSize

open Sys2Proof Sys2Proof.Machine Sys2Proof.Proofs.TableInverses Sys2Proof.Proofs.Effects

variable {s s₁ s₂ t t₁ t₂ : State} {i : Instr} {force : Bool} {e e₁ : Engine} {rest : Engine → Engine} {x : Byte}

/-! ### Two engines alike -/

/-- The same alphabet, and the same registers but for OBUF and OUTCNT. -/
structure Alike (s₁ s₂ : State) : Prop where
  alphabet : s₁.cfg.alphabet = s₂.cfg.alphabet
  regs : s₁.eng.apartFromChunks = s₂.eng.apartFromChunks

/-- The registers of the second engine, by those of the first. -/
theorem Alike.eng (h : Alike s₁ s₂) : s₂.eng = { s₁.eng with obuf := s₂.eng.obuf, outcnt := s₂.eng.outcnt } := by
  have hregs := h.regs
  simp only [Engine.apartFromChunks, Engine.mk.injEq, true_and] at hregs
  obtain ⟨hstate, hdir, herr, hacc, hcnt, hpads, hfin, hincnt, herrpos⟩ := hregs
  simp only [hstate, hdir, herr, hacc, hcnt, hpads, hfin, hincnt, herrpos]

theorem encLut_congr {c c' : Config} (h : c.alphabet = c'.alphabet) (j : Index) : encLut c j = encLut c' j := by
  rw [encLut, encLut, h]

theorem cleanResponse_congr {c c' : Config} (h : c.alphabet = c'.alphabet) (i : Instr) :
    cleanResponse c i = cleanResponse c' i := by
  unfold cleanResponse
  cases i <;> simp only [encLut_congr h, decLut_of_alphabet_eq h]

theorem checkChar_congr {c c' : Config} (h : c.alphabet = c'.alphabet) (e : Engine) (x : Byte) :
    checkChar c e x = checkChar c' e x := by
  unfold checkChar
  rw [decLut_of_alphabet_eq h]

theorem takeChar_congr {c c' : Config} (h : c.alphabet = c'.alphabet) (x : Byte) (e : Engine) :
    takeChar c x e = takeChar c' x e := by
  unfold takeChar
  rw [decLut_of_alphabet_eq h]

theorem encGroup_congr {c c' : Config} (h : c.alphabet = c'.alphabet) (g : Group) : encGroup c g = encGroup c' g := by
  simp only [encGroup, encLut_congr h]

theorem encTail_congr {c c' : Config} (h : c.alphabet = c'.alphabet) (n : BitVec 2) (g : Group) :
    encTail c n g = encTail c' n g := by
  simp only [encTail, encLut_congr h]

/-- The checks do not read OBUF and OUTCNT. -/
theorem Alike.checkChar (h : Alike s₁ s₂) (x : Byte) :
    checkChar s₂.cfg s₂.eng x = checkChar s₁.cfg s₁.eng x := by
  rw [checkChar_congr h.alphabet.symm, h.eng]
  rfl

/-- Neither does a character taken in. -/
theorem Alike.takeChar (h : Alike s₁ s₂) (x : Byte) : takeChar s₂.cfg x s₂.eng =
    { takeChar s₁.cfg x s₁.eng with obuf := s₂.eng.obuf, outcnt := s₂.eng.outcnt } := by
  rw [takeChar_congr h.alphabet.symm, h.eng]
  unfold Machine.takeChar
  split <;> rfl

/-! ### What is compared -/

/-- After a command: the same registers but for OBUF and OUTCNT, the same response, and the same items added to what is
put out, unless the command discards what OBUF holds. -/
def StayAlike (i : Instr) (s₁ s₂ t₁ t₂ : State) : Prop :=
  t₁.eng.apartFromChunks = t₂.eng.apartFromChunks ∧ t₁.responses.getLast? = t₂.responses.getLast? ∧
    (¬discardsOutput i s₁ t₁ → ∃ added, t₁.output = s₁.output ++ added ∧ t₂.output = s₂.output ++ added) ∧
    (discardsOutput i s₁ t₁ → t₁.output = s₁.sink.flatten ∧ t₂.output = s₂.sink.flatten)

theorem stayAlike_of_not_discards (hd : ¬discardsOutput i s₁ t₁)
    (hregs : t₁.eng.apartFromChunks = t₂.eng.apartFromChunks) (hrsp : t₁.responses.getLast? = t₂.responses.getLast?)
    (hout : ∃ added, t₁.output = s₁.output ++ added ∧ t₂.output = s₂.output ++ added) : StayAlike i s₁ s₂ t₁ t₂ :=
  ⟨hregs, hrsp, fun _ => hout, fun h => absurd h hd⟩

theorem stayAlike_of_discards (hd : discardsOutput i s₁ t₁) (hregs : t₁.eng.apartFromChunks = t₂.eng.apartFromChunks)
    (hrsp : t₁.responses.getLast? = t₂.responses.getLast?) (h₁ : t₁.output = s₁.sink.flatten)
    (h₂ : t₂.output = s₂.sink.flatten) : StayAlike i s₁ s₂ t₁ t₂ :=
  ⟨hregs, hrsp, fun h => absurd hd h, fun _ => ⟨h₁, h₂⟩⟩

/-- A command that only answers, the same on both. -/
theorem stayAlike_answer (h : Alike s₁ s₂) (hi : i = .clr → s₁.eng.state = .run) (rsp : RspWord) :
    StayAlike i s₁ s₂ (s₁.answer rsp) (s₂.answer rsp) := by
  refine stayAlike_of_not_discards ?_ h.regs (by simp) ⟨[], by simp [State.output]⟩
  rintro (⟨hrun, hfault⟩ | ⟨hrun, rfl⟩)
  · simp [hrun] at hfault
  · exact hrun (hi rfl)

/-! ### The same way on both engines -/

theorem Alike.raises (h : Alike s₁ s₂) {k : ErrKind} (hr : Raises s₁ i k) : Raises s₂ i k := by
  cases hr with
  | abt => exact .abt
  | end_ hd hc => exact .end_ (h.eng ▸ hd) (h.eng ▸ hc)
  | put hd hk => exact .put (h.eng ▸ hd) ((h.checkChar _).trans hk)

/-- An item taken on both leaves the same registers, and OBUF as it was on each. -/
theorem Alike.takes (h : Alike s₁ s₂) (ht : Takes s₁ x e₁) :
    ∃ e₂, Takes s₂ x e₂ ∧ (countItem e₁).apartFromChunks = (countItem e₂).apartFromChunks := by
  cases ht with
  | encode hd hc =>
    refine ⟨_, .encode (h.eng ▸ hd) (h.eng ▸ hc), ?_⟩
    rw [h.eng]
    rfl
  | decode hd hok hc =>
    refine ⟨_, .decode (h.eng ▸ hd) ((h.checkChar _).trans hok) (h.eng ▸ hc), ?_⟩
    rw [h.takeChar, h.eng]
    rfl

theorem Alike.immediate (h : Alike s₁ s₂) (hi : Immediate s₁ i t₁) :
    ∃ t₂, Immediate s₂ i t₂ ∧ StayAlike i s₁ s₂ t₁ t₂ := by
  have hstate : s₂.eng.state = s₁.eng.state := by rw [h.eng]
  cases hi with
  | refused hl =>
    refine ⟨_, .refused (hstate ▸ hl), stayAlike_answer h ?_ _⟩
    rintro rfl
    cases hs : s₁.eng.state <;> simp [hs, legalIn] at hl ⊢
  | noIndex hx => exact ⟨_, .noIndex hx, stayAlike_answer h (by simp) _⟩
  | lookedUp hl =>
    refine ⟨_, .lookedUp hl, ?_⟩
    rw [cleanResponse_congr h.alphabet]
    exact stayAlike_answer h (fun hi => absurd hi (legalIn_of_isLookup hl).2.1) _
  | opened hs hi =>
    refine ⟨_, .opened (hstate ▸ hs) hi, stayAlike_of_not_discards ?_ ?_ (by simp) ⟨[], by simp [State.output]⟩⟩
    · rintro (⟨hrun, -⟩ | ⟨-, rfl⟩)
      · simp [hs] at hrun
      · simp at hi
    · rw [completed_eng, completed_eng, h.eng]
      rfl
  | cleared hs =>
    exact ⟨_, .cleared (hstate ▸ hs), stayAlike_of_discards (.inr ⟨hs, rfl⟩) rfl (by simp) (by simp [State.output])
      (by simp [State.output])⟩
  | raised hs hr =>
    refine ⟨_, .raised (hstate ▸ hs) (h.raises hr),
      stayAlike_of_discards (.inl ⟨hs, rfl⟩) ?_ (by simp) (by simp [State.output]) (by simp [State.output])⟩
    rw [raise_eng, raise_eng, h.eng]
    rfl
  | taken hs ht =>
    obtain ⟨e₂, ht₂, hregs⟩ := h.takes ht
    have hobuf₁ := ht.keeps.2.2.2.2.2.2.1
    have hobuf₂ := ht₂.keeps.2.2.2.2.2.2.1
    refine ⟨_, .taken (hstate ▸ hs) ht₂, stayAlike_of_not_discards ?_ hregs (by simp) ⟨[], ?_, ?_⟩⟩
    · rintro (⟨-, hfault⟩ | ⟨hrun, -⟩)
      · simp [countItem, ht.keeps.1, hs] at hfault
      · exact hrun hs
    · simp [State.output, countItem, hobuf₁]
    · simp [State.output, countItem, hobuf₂]

/-- Both engines reach the chunk rule, with the same items added to OBUF. -/
theorem Alike.reachesFlush (h : Alike s₁ s₂) (hf : ReachesFlush s₁ i force e₁ rest) :
    ∃ e₂, ReachesFlush s₂ i force e₂ rest ∧ (rest e₁).apartFromChunks = (rest e₂).apartFromChunks ∧
      ∃ added, e₁.obuf = s₁.eng.obuf ++ added ∧ e₂.obuf = s₂.eng.obuf ++ added := by
  cases hf with
  | putEncode hs hd hc =>
    refine ⟨_, .putEncode (h.eng ▸ hs) (h.eng ▸ hd) (h.eng ▸ hc), ?_, _, rfl, ?_⟩
    · simp only [encClosed]
      rw [h.eng]
      rfl
    · simp only [encClosed]
      rw [encGroup_congr h.alphabet.symm, h.eng]
  | putDecode hs hd hok hc =>
    refine ⟨_, .putDecode (h.eng ▸ hs) (h.eng ▸ hd) ((h.checkChar _).trans hok) (h.eng ▸ hc), ?_, _,
      by rw [closeGroup_obuf, takeChar_obuf], ?_⟩
    · rw [h.takeChar]
      rfl
    · rw [h.takeChar]
      simp
  | endEncode hs hd =>
    refine ⟨_, .endEncode (h.eng ▸ hs) (h.eng ▸ hd), ?_, _, rfl, ?_⟩
    · simp only [encTailed]
      rw [h.eng]
      rfl
    · simp only [encTailed]
      rw [encTail_congr h.alphabet.symm, h.eng]
  | endDecode hs hd hc =>
    refine ⟨_, .endDecode (h.eng ▸ hs) (h.eng ▸ hd) (h.eng ▸ hc), ?_, [], by simp, by simp⟩
    rw [h.eng]
    rfl

/-- With a sink that answers Ok the chunk rule moves items of OBUF to the sink at most: what is put out is the same
whether it performs a burst or not. -/
theorem outcome_of_ok (hf : ReachesFlush s i force e rest) (hr : s.sinkReply = .ok) (hexec : exec i s = .next t) :
    t.eng.apartFromChunks = (rest e).apartFromChunks ∧ t.responses = s.responses ++ [0x000#12] ∧
      t.output = s.sink.flatten ++ e.obuf ∧ t.eng.state = (rest e).state := by
  rw [exec_of_reachesFlush hf] at hexec
  have hobuf := fun g => (hf.rest_keeps g).2.2.1
  obtain ⟨-, rfl⟩ | ⟨-, -, rfl⟩ | ⟨-, hfail, -⟩ := flush_setEng_next hexec
  · exact ⟨rfl, rfl, by simp [State.output, hobuf], rfl⟩
  · refine ⟨?_, rfl, ?_, ?_⟩
    · cases hf <;> rfl
    · have hdrained : (flushed s e).eng = e.drained := rfl
      simp [State.output, hobuf, hdrained]
    · cases hf <;> rfl
  · simp [hr] at hfail

theorem stayAlike_of_exec (h : Alike s₁ s₂) (hr₁ : s₁.sinkReply = .ok) (hr₂ : s₂.sinkReply = .ok)
    (hexec₁ : exec i s₁ = .next t₁) (hexec₂ : exec i s₂ = .next t₂) : StayAlike i s₁ s₂ t₁ t₂ := by
  obtain ⟨u₁, hi₁⟩ | ⟨force, e₁, rest, hf₁⟩ := immediate_or_reachesFlush i s₁
  · obtain ⟨u₂, hi₂, halike⟩ := h.immediate hi₁
    obtain rfl := Host.Outcome.next.inj ((exec_of_immediate hi₁).symm.trans hexec₁)
    obtain rfl := Host.Outcome.next.inj ((exec_of_immediate hi₂).symm.trans hexec₂)
    exact halike
  · obtain ⟨e₂, hf₂, hregs, added, hadd₁, hadd₂⟩ := h.reachesFlush hf₁
    obtain ⟨hregs₁, hrsp₁, hout₁, hstate₁⟩ := outcome_of_ok hf₁ hr₁ hexec₁
    obtain ⟨hregs₂, hrsp₂, hout₂, -⟩ := outcome_of_ok hf₂ hr₂ hexec₂
    refine stayAlike_of_not_discards ?_ (hregs₁.trans (hregs.trans hregs₂.symm)) (by rw [hrsp₁, hrsp₂]; simp) ⟨added, ?_, ?_⟩
    · rintro (⟨-, hfault⟩ | ⟨hrun, -⟩)
      · obtain hkeep | ⟨-, hdone⟩ := hf₁.rest_state
        · simp [hstate₁, hkeep, hf₁.keeps.1, hf₁.run] at hfault
        · simp [hstate₁, hdone] at hfault
      · exact hrun hf₁.run
    · rw [hout₁, hadd₁, State.output, List.append_assoc]
    · rw [hout₂, hadd₂, State.output, List.append_assoc]

end Sys2Proof.Proofs.ChunkSize
end

section
namespace Sys2Proof.Proofs

open Sys2Proof Sys2Proof.Machine Sys2Proof.Proofs.ChunkSize

/-- Settles O44: both engines take the same way through the command, and only OBUF and OUTCNT show K. -/
theorem chunkSizeDoesNotInfluenceTheTransform : Obligations.ChunkSizeDoesNotInfluenceTheTransform :=
  fun _ _ _ _ _ halphabet hregs hr₁ hr₂ hexec₁ hexec₂ => stayAlike_of_exec ⟨halphabet, hregs⟩ hr₁ hr₂ hexec₁ hexec₂

end Sys2Proof.Proofs
end

section
/-! The transform enc (41_encode.md R88, R92, R93): its length, where PAD stands, and its groups; with the statements O49
and O50. -/
namespace Sys2Proof.Proofs.EncodedText

open Sys2Proof Sys2Proof.Machine Sys2Proof.Proofs.LookupCommands

variable {c : Config}

theorem enc_length (c : Config) (b : List Byte) : (enc c b).length = 4 * ((b.length + 2) / 3) := by
  induction b using enc.induct with
  | case1 | case2 | case3 => simp [enc]
  | case4 b0 b1 b2 rest ih =>
    simp only [enc, List.length_cons, ih]
    omega

/-- Whole groups are encoded one by one. -/
theorem enc_append {a : List Byte} (ha : a.length % 3 = 0) (b : List Byte) : enc c (a ++ b) = enc c a ++ enc c b := by
  induction a using enc.induct with
  | case1 => rfl
  | case2 | case3 => simp at ha
  | case4 b0 b1 b2 rest ih =>
    simp only [List.length_cons] at ha
    simp only [List.cons_append, enc, ih (by omega)]

/-- A text is symbols followed by `p` PAD. -/
def SymbolsThenPadding (c : Config) (text : List Byte) (p : Nat) : Prop :=
  ∃ body, text = body ++ List.replicate p padSym ∧ ∀ x ∈ body, ∃ i, x = symbolOf c i

theorem symbolsThenPadding_enc (c : Config) (b : List Byte) :
    SymbolsThenPadding c (enc c b) ((3 - b.length % 3) % 3) := by
  induction b using enc.induct with
  | case1 => exact ⟨[], rfl, by simp⟩
  | case2 b0 => exact ⟨[symbolOf c _, symbolOf c _], rfl, by simp⟩
  | case3 b0 b1 => exact ⟨[symbolOf c _, symbolOf c _, symbolOf c _], rfl, by simp⟩
  | case4 b0 b1 b2 rest ih =>
    obtain ⟨body, htext, hbody⟩ := ih
    have hmod : (rest.length + 1 + 1 + 1) % 3 = rest.length % 3 := by omega
    refine ⟨enc c [b0, b1, b2] ++ body, ?_, ?_⟩
    · simp only [enc, htext, List.length_cons, hmod, List.cons_append, List.nil_append]
    · simpa [enc] using hbody

end Sys2Proof.Proofs.EncodedText
end

section
namespace Sys2Proof.Proofs

open Sys2Proof Sys2Proof.Machine Sys2Proof.Proofs.LookupCommands Sys2Proof.Proofs.EncodedText

/-- Settles O49: by the recursion of enc. -/
theorem encodedLength : Obligations.EncodedLength := enc_length

/-- Settles O50: by the recursion of enc, and alphabet closure. -/
theorem encodedTextIsSymbolsThenPadding : Obligations.EncodedTextIsSymbolsThenPadding := by
  intro c b hcfg
  obtain ⟨body, htext, hbody⟩ := symbolsThenPadding_enc c b
  refine ⟨body, htext, fun x hx => ⟨hbody x hx, ?_⟩⟩
  obtain ⟨i, rfl⟩ := hbody x hx
  exact encLut_ne_padSym hcfg.2.1 i

end Sys2Proof.Proofs
end

section
/-! The transform dec (42_decode.md R96, R100 to R103): the character checks read only what stands before the character,
a PAD stands in the last group, and the value goes group by group; with the statements O51 to O55. -/
namespace Sys2Proof.Proofs.DecodedText

open Sys2Proof Sys2Proof.Machine Sys2Proof.Proofs.LookupCommands Sys2Proof.Proofs.DecodePut
  Sys2Proof.Proofs.TableInverses Sys2Proof.Proofs.Invariants Sys2Proof.Proofs.EncodedText

variable {c : Config} {t a b : List Byte} {p q : Nat} {x ch : Byte} {kind : ErrKind}

/-! ### The character checks -/

theorem padAt_append_left (hp : p < a.length) : padAt (a ++ b) p = padAt a p := by
  rw [padAt, padAt, List.getElem?_append_left hp]

/-- The check of a character reads only the text before it. -/
theorem badAt_append (hp : p ≤ a.length) : badAt c (a ++ b) p ch = badAt c a p ch := by
  have hgroup : (4 ≤ p ∧ padAt (a ++ b) (p - p % 4 - 1) = true) ↔ (4 ≤ p ∧ padAt a (p - p % 4 - 1) = true) :=
    and_congr_right fun h4 => by rw [padAt_append_left (by omega)]
  have hlast : (p % 4 = 3 ∧ padAt (a ++ b) (p - 1) = true) ↔ (p % 4 = 3 ∧ padAt a (p - 1) = true) :=
    and_congr_right fun h3 => by rw [padAt_append_left (by omega)]
  simp only [badAt, hgroup, hlast]

theorem firstBad_prefix {l : List Byte} (h : p + l.length ≤ a.length) :
    firstBad c (a ++ b) p l = firstBad c a p l := by
  induction l generalizing p with
  | nil => rfl
  | cons ch rest ih =>
    simp only [List.length_cons] at h
    rw [firstBad, firstBad, badAt_append (by omega), ih (by omega)]

theorem firstBad_append {l l' : List Byte} (h : firstBad c t p l = none) :
    firstBad c t p (l ++ l') = firstBad c t (p + l.length) l' := by
  induction l generalizing p with
  | nil => rfl
  | cons ch rest ih =>
    rw [firstBad] at h
    cases hbad : badAt c t p ch with
    | some k => simp [hbad] at h
    | none =>
      rw [List.cons_append, firstBad, hbad]
      rw [hbad] at h
      simp only [ih h, List.length_cons]
      congr 1
      omega

/-- No character of the text is bad (R96 step 1). -/
def Clean (c : Config) (t : List Byte) : Prop := firstBad c t 0 t = none

theorem firstBad_of_clean (h : Clean c a) (b : List Byte) :
    firstBad c (a ++ b) 0 (a ++ b) = firstBad c (a ++ b) a.length b := by
  have hprefix : firstBad c (a ++ b) 0 a = none := (firstBad_prefix (by omega)).trans h
  rw [firstBad_append hprefix, Nat.zero_add]

/-- One more character: the check at the end of the text so far. -/
theorem clean_append_singleton (h : Clean c a) : Clean c (a ++ [ch]) ↔ badAt c a a.length ch = none := by
  rw [Clean, firstBad_of_clean h, firstBad, badAt_append (Nat.le_refl _)]
  cases badAt c a a.length ch <;> simp [firstBad]

/-- A bad character after a clean text is the first one. -/
theorem dec_of_bad (h : Clean c a) (hbad : badAt c a a.length ch = some kind) (after : List Byte) :
    dec c (a ++ ch :: after) = .err kind a.length := by
  rw [dec, firstBad_of_clean h, firstBad, badAt_append (Nat.le_refl _), hbad]

/-- A text is clean, or a clean text followed by a bad character. -/
theorem clean_or_bad (c : Config) (t : List Byte) :
    Clean c t ∨ ∃ before ch after kind,
      t = before ++ ch :: after ∧ Clean c before ∧ badAt c before before.length ch = some kind := by
  induction t using List.reverseRecOn with
  | nil => exact .inl rfl
  | append_singleton t ch ih =>
    obtain h | ⟨before, ch', after, kind, rfl, h, hbad⟩ := ih
    · cases hbad : badAt c t t.length ch with
      | none => exact .inl ((clean_append_singleton h).mpr hbad)
      | some kind => exact .inr ⟨t, ch, [], kind, rfl, h, hbad⟩
    · exact .inr ⟨before, ch', after ++ [ch], kind, by simp, h, hbad⟩

theorem dec_of_clean (h : Clean c t) :
    dec c t = if t.length % 4 ≠ 0 then .err .invalidLength t.length else .ok (decValue c t) := by
  rw [dec, show firstBad c t 0 t = none from h]

theorem not_clean_of_bad (h : Clean c a) (hbad : badAt c a a.length ch = some kind) (after : List Byte) :
    ¬ Clean c (a ++ ch :: after) := by
  rw [Clean, firstBad_of_clean h, firstBad, badAt_append (Nat.le_refl _), hbad]
  simp

theorem dec_eq_ok_iff {bytes : List Byte} :
    dec c t = .ok bytes ↔ Clean c t ∧ t.length % 4 = 0 ∧ bytes = decValue c t := by
  obtain h | ⟨before, ch, after, kind, rfl, h, hbad⟩ := clean_or_bad c t
  · rw [dec_of_clean h]
    by_cases hlen : t.length % 4 = 0
    · rw [if_neg (not_not_intro hlen), DecResult.ok.injEq, eq_comm]
      simp [h, hlen]
    · simp [hlen]
  · simp [dec_of_bad h hbad, not_clean_of_bad h hbad]

/-- Why a text is rejected: its length, or its first bad character. -/
theorem dec_eq_err (h : dec c t = .err kind p) :
    (Clean c t ∧ t.length % 4 ≠ 0 ∧ kind = .invalidLength ∧ p = t.length) ∨
    ∃ before ch after, t = before ++ ch :: after ∧ p = before.length ∧ Clean c before ∧
      badAt c before before.length ch = some kind := by
  obtain hclean | ⟨before, ch, after, kind', rfl, hclean, hbad⟩ := clean_or_bad c t
  · rw [dec_of_clean hclean] at h
    split at h
    · obtain ⟨rfl, rfl⟩ := DecResult.err.inj h
      exact .inl ⟨hclean, ‹_›, rfl, rfl⟩
    · contradiction
  · rw [dec_of_bad hclean hbad] at h
    obtain ⟨rfl, rfl⟩ := DecResult.err.inj h
    exact .inr ⟨before, ch, after, rfl, rfl, hclean, hbad⟩

theorem badAt_kind (h : badAt c t p ch = some kind) :
    kind = .invalidSymbol ∧ classOf c ch = .bad ∨ kind = .invalidPadding ∧ classOf c ch ≠ .bad := by
  revert h
  unfold badAt
  repeat' split
  all_goals
    intro h
    cases h <;> simp [*]

theorem clean_of_append (h : Clean c (a ++ b)) : Clean c a := by
  obtain ha | ⟨before, ch, after, kind, rfl, hbefore, hbad⟩ := clean_or_bad c a
  · exact ha
  · rw [List.append_assoc] at h
    exact absurd h (not_clean_of_bad hbefore hbad _)

/-- A text is clean exactly when every character passes its check. -/
theorem clean_iff : Clean c t ↔ ∀ p ch, t[p]? = some ch → badAt c t p ch = none := by
  constructor
  · intro h p ch hp
    obtain ⟨hlt, rfl⟩ := List.getElem?_eq_some_iff.mp hp
    have hsplit : t = t.take p ++ t[p] :: t.drop (p + 1) := by
      rw [List.getElem_cons_drop, List.take_append_drop]
    have hlen : (t.take p).length = p := List.length_take_of_le hlt.le
    generalize t.take p = a, t[p] = ch, t.drop (p + 1) = b at hsplit hlen
    subst hsplit hlen
    rw [badAt_append (Nat.le_refl _)]
    cases hbad : badAt c a a.length ch with
    | none => rfl
    | some kind => exact absurd h (not_clean_of_bad (clean_of_append h) hbad _)
  · intro h
    obtain hclean | ⟨before, ch, after, kind, rfl, hbefore, hbad⟩ := clean_or_bad c t
    · exact hclean
    · have hnone := h before.length ch (by simp)
      rw [badAt_append (Nat.le_refl _), hbad] at hnone
      contradiction

/-! ### Where PAD stands -/

theorem padAt_iff : padAt t p = true ↔ t[p]? = some padSym := beq_iff_eq

/-- In a clean text a PAD stands at position 2 or 3 of its group, where at position 2 PAD follows, and no group follows. -/
theorem padding_of_clean (hpad : padSym ∉ c.alphabet.toList) (h : Clean c t) (hq : padAt t q = true) :
    2 ≤ q % 4 ∧ (q % 4 = 2 → q + 1 < t.length → padAt t (q + 1) = true) ∧ t.length ≤ q - q % 4 + 4 := by
  have hclass : classOf c padSym = .padc := (classOf_eq_padc_iff hpad).mpr rfl
  have htwo : 2 ≤ q % 4 := by
    have hok := clean_iff.mp h q padSym (padAt_iff.mp hq)
    by_contra hlt
    simp [badAt, hclass, show q % 4 < 2 by omega] at hok
  have hnext (h2 : q % 4 = 2) (hlt : q + 1 < t.length) : padAt t (q + 1) = true := by
    have hok := clean_iff.mp h (q + 1) t[q + 1] (List.getElem?_eq_getElem hlt)
    by_contra hne
    have hsym : classOf c t[q + 1] ≠ .padc := by
      rw [Ne, classOf_eq_padc_iff hpad]
      simpa [padAt_iff, List.getElem?_eq_getElem hlt] using hne
    simp only [badAt, hsym, ne_eq, not_false_eq_true, Nat.add_sub_cancel, hq, show (q + 1) % 4 = 3 by omega, and_self,
      if_true] at hok
    split at hok
    · contradiction
    · split at hok <;> simp at hok
  refine ⟨htwo, hnext, ?_⟩
  by_contra hlen
  have hlast : padAt t (q - q % 4 + 3) = true := by
    obtain h2 | h3 : q % 4 = 2 ∨ q % 4 = 3 := by omega
    · have := hnext h2 (by omega)
      rwa [show q - q % 4 + 3 = q + 1 by omega]
    · rwa [show q - q % 4 + 3 = q by omega]
  have hlt : q - q % 4 + 4 < t.length := by omega
  have hok := clean_iff.mp h _ _ (List.getElem?_eq_getElem hlt)
  have hprev : 4 ≤ q - q % 4 + 4 ∧ padAt t (q - q % 4 + 4 - (q - q % 4 + 4) % 4 - 1) = true := by
    refine ⟨by omega, ?_⟩
    rwa [show q - q % 4 + 4 - (q - q % 4 + 4) % 4 - 1 = q - q % 4 + 3 by omega]
  simp only [badAt, hprev, and_self, if_true] at hok
  split at hok <;> simp at hok

theorem exists_sym_of_clean (hpad : padSym ∉ c.alphabet.toList) (h : Clean c t) (hx : x ∈ t) (hne : x ≠ padSym) :
    ∃ i, classOf c x = .sym i := by
  obtain ⟨p, hp⟩ := List.mem_iff_getElem?.mp hx
  have hok := clean_iff.mp h p x hp
  cases hclass : classOf c x with
  | sym i => exact ⟨i, rfl⟩
  | padc => exact absurd ((classOf_eq_padc_iff hpad).mp hclass) hne
  | bad => simp [badAt, hclass] at hok

/-! ### Well-formed text -/

/-- R96 step 3: a multiple of 4 characters, all symbols but for one or two PAD at the end. -/
def WellFormedText (c : Config) (t : List Byte) : Prop :=
  t.length % 4 = 0 ∧ ∃ (body : List Byte) (p : Nat), t = body ++ List.replicate p padSym ∧ p ≤ 2 ∧
    ∀ x ∈ body, ∃ i, classOf c x = .sym i

theorem wellFormedText_of_clean (hpad : padSym ∉ c.alphabet.toList) (h : Clean c t) (hlen : t.length % 4 = 0) :
    WellFormedText c t := by
  refine ⟨hlen, ?_⟩
  by_cases hmem : padSym ∈ t
  · obtain ⟨body, tail, rfl, hbody⟩ := List.eq_append_cons_of_mem hmem
    have hq : padAt (body ++ padSym :: tail) body.length = true := by simp [padAt]
    obtain ⟨htwo, hnext, hlast⟩ := padding_of_clean hpad h hq
    have hsym : ∀ x ∈ body, ∃ i, classOf c x = .sym i := fun x hx =>
      exists_sym_of_clean hpad h (List.mem_append_left _ hx) fun he => hbody (he ▸ hx)
    simp only [List.length_append, List.length_cons] at hlen hnext hlast
    match tail with
    | [] => exact ⟨body, 1, rfl, by decide, hsym⟩
    | [y] =>
      have hy := hnext (by simp at hlen; omega) (by simp)
      have : y = padSym := by simpa [padAt] using hy
      exact ⟨body, 2, by simp [this, List.replicate], by decide, hsym⟩
    | y :: z :: tail =>
      simp only [List.length_cons] at hlast
      omega
  · exact ⟨t, 0, by simp, by decide, fun x hx => exists_sym_of_clean hpad h hx fun he => hmem (he ▸ hx)⟩

theorem clean_of_wellFormedText (hpad : padSym ∉ c.alphabet.toList) (h : WellFormedText c t) : Clean c t := by
  obtain ⟨hlen, body, n, rfl, hn, hbody⟩ := h
  have hclass : classOf c padSym = .padc := (classOf_eq_padc_iff hpad).mpr rfl
  simp only [List.length_append, List.length_replicate] at hlen
  have hsym {p : Nat} (hp : p < body.length) : padAt (body ++ List.replicate n padSym) p = false := by
    obtain ⟨i, hi⟩ := hbody _ (List.getElem_mem hp)
    refine Bool.eq_false_iff.mpr fun hpadAt => ?_
    rw [padAt_iff, List.getElem?_append_left hp, List.getElem?_eq_getElem hp, Option.some.injEq] at hpadAt
    simp [hpadAt, hclass] at hi
  rw [clean_iff]
  intro p ch hp
  have hlt := (List.getElem?_eq_some_iff.mp hp).1
  simp only [List.length_append, List.length_replicate] at hlt
  have hgroup : ¬ (4 ≤ p ∧ padAt (body ++ List.replicate n padSym) (p - p % 4 - 1) = true) := by
    rintro ⟨h4, hpadAt⟩
    rw [hsym (by omega)] at hpadAt
    contradiction
  by_cases hbefore : p < body.length
  · rw [List.getElem?_append_left hbefore] at hp
    obtain ⟨i, hi⟩ := hbody ch (List.mem_of_getElem? hp)
    have hprev : ¬ (p % 4 = 3 ∧ padAt (body ++ List.replicate n padSym) (p - 1) = true) := by
      rintro ⟨h3, hpadAt⟩
      rw [hsym (by omega)] at hpadAt
      contradiction
    simp [badAt, hi, hgroup, hprev]
  · rw [List.getElem?_append_right (by omega), List.getElem?_replicate] at hp
    obtain rfl : padSym = ch := by
      split at hp
      · exact Option.some.inj hp
      · contradiction
    have htwo : ¬ p % 4 < 2 := by omega
    simp [badAt, hclass, hgroup, htwo]

/-! ### The value -/

/-- Whole groups are decoded one by one. -/
theorem decValue_append (ha : a.length % 4 = 0) (b : List Byte) :
    decValue c (a ++ b) = decValue c a ++ decValue c b := by
  induction a using decValue.induct with
  | case1 c0 c1 c2 c3 rest ih =>
    simp only [List.length_cons] at ha
    simp only [List.cons_append, decValue, ih (by omega), List.append_assoc]
  | case2 a hshort =>
    match a with
    | [] => rfl
    | [_] | [_, _] | [_, _, _] => simp at ha
    | c0 :: c1 :: c2 :: c3 :: rest => exact absurd rfl (hshort c0 c1 c2 c3 rest)

theorem decValue_of_length_lt_four (h : t.length < 4) : decValue c t = [] := by
  match t with
  | [] | [_] | [_, _] | [_, _, _] => rfl
  | _ :: _ :: _ :: _ :: _ =>
    simp only [List.length_cons] at h
    omega

/-- An unpadded group gives three bytes. -/
theorem decValue_length_of_unpadded (hpad : padSym ∉ t) (hlen : t.length % 4 = 0) :
    (decValue c t).length = 3 * (t.length / 4) := by
  induction t using decValue.induct with
  | case1 c0 c1 c2 c3 rest ih =>
    simp only [List.mem_cons, not_or] at hpad
    obtain ⟨-, -, h2, h3, hrest⟩ := hpad
    simp only [List.length_cons] at hlen ⊢
    simp only [decValue, decChars, isPad_of_ne (Ne.symm h2), isPad_of_ne (Ne.symm h3), Bool.false_eq_true, if_false,
      List.length_append, List.length_cons, List.length_nil, ih hrest (by omega)]
    omega
  | case2 t hshort =>
    match t with
    | [] => rfl
    | [_] | [_, _] | [_, _, _] => simp at hlen
    | c0 :: c1 :: c2 :: c3 :: rest => exact absurd rfl (hshort c0 c1 c2 c3 rest)

/-- A text cut before its last, incomplete or padded, group. -/
theorem exists_whole_groups (t : List Byte) : ∃ whole rest, t = whole ++ rest ∧ whole.length % 4 = 0 ∧
    rest.length = t.length % 4 := by
  refine ⟨t.take (t.length - t.length % 4), t.drop (t.length - t.length % 4), (List.take_append_drop _ _).symm, ?_, ?_⟩
  · rw [List.length_take]
    omega
  · rw [List.length_drop]
    omega

/-- A padded group gives a byte less for each PAD. -/
theorem decValue_length {body : List Byte} {n : Nat} (hbody : padSym ∉ body) (hn : n ≤ 2)
    (hlen : (body.length + n) % 4 = 0) :
    (decValue c (body ++ List.replicate n padSym)).length + n = 3 * ((body.length + n) / 4) := by
  obtain ⟨whole, rest, rfl, hwhole, hrest⟩ := exists_whole_groups body
  simp only [List.mem_append, not_or] at hbody
  obtain ⟨hnwhole, hnrest⟩ := hbody
  simp only [List.length_append] at hlen hrest ⊢
  rw [List.append_assoc, decValue_append hwhole, List.length_append, decValue_length_of_unpadded hnwhole hwhole]
  match n with
  | 0 =>
    obtain rfl := List.eq_nil_of_length_eq_zero (l := rest) (by omega)
    simp [decValue]
  | 1 =>
    match rest, hnrest with
    | [_, _, c2], hnrest =>
      have h2 : isPad c2 = false := isPad_of_ne fun h => by simp [h] at hnrest
      simp [List.replicate, decValue, decChars, h2]
      omega
    | [], _ | [_], _ | [_, _], _ => simp at hlen hrest; omega
    | _ :: _ :: _ :: _ :: _, _ => simp only [List.length_cons] at hrest; omega
  | 2 =>
    match rest with
    | [_, _] =>
      simp [List.replicate, decValue, decChars]
      omega
    | [] | [_] | [_, _, _] => simp at hlen hrest; omega
    | _ :: _ :: _ :: _ :: _ => simp only [List.length_cons] at hrest; omega

/-! ### The round trip -/

theorem indexOrZero_of_indexOf {i : Index} (h : indexOf c x = some i) : indexOrZero c x = i := by
  rw [indexOrZero, h, Option.getD_some]

theorem decChars_two_padding (c : Config) (c0 c1 ch : Byte) :
    decChars c c0 c1 padSym ch = [indexOrZero c c0 ++ (indexOrZero c c1).extractLsb' 4 2] := rfl

theorem decChars_one_padding (c0 c1 : Byte) {c2 : Byte} (h2 : c2 ≠ padSym) :
    decChars c c0 c1 c2 padSym = [indexOrZero c c0 ++ (indexOrZero c c1).extractLsb' 4 2,
      (indexOrZero c c1).extractLsb' 0 4 ++ (indexOrZero c c2).extractLsb' 2 4] := by
  simp [decChars, isPad_of_ne h2]

theorem decChars_unpadded (c0 c1 : Byte) {c2 c3 : Byte} (h2 : c2 ≠ padSym) (h3 : c3 ≠ padSym) :
    decChars c c0 c1 c2 c3 = [indexOrZero c c0 ++ (indexOrZero c c1).extractLsb' 4 2,
      (indexOrZero c c1).extractLsb' 0 4 ++ (indexOrZero c c2).extractLsb' 2 4,
      (indexOrZero c c2).extractLsb' 0 2 ++ indexOrZero c c3] := by
  simp [decChars, isPad_of_ne h2, isPad_of_ne h3]

/-- The slices of a byte that two neighbouring fields of a group hold are the byte (30_encoding.md R73, R75). -/
theorem split_six_two (b : Byte) (z : BitVec 4) :
    b.extractLsb' 2 6 ++ (b.extractLsb' 0 2 ++ z).extractLsb' 4 2 = b := by
  rw [BitVec.extractLsb'_append_eq_left, BitVec.extractLsb'_append_extractLsb'_eq_extractLsb' (by decide)]
  exact BitVec.extractLsb'_eq_self

theorem split_four_four (y : BitVec 2) (b : Byte) (z : BitVec 2) :
    (y ++ b.extractLsb' 4 4).extractLsb' 0 4 ++ (b.extractLsb' 0 4 ++ z).extractLsb' 2 4 = b := by
  rw [BitVec.extractLsb'_append_eq_right, BitVec.extractLsb'_append_eq_left,
    BitVec.extractLsb'_append_extractLsb'_eq_extractLsb' (by decide)]
  exact BitVec.extractLsb'_eq_self

theorem split_two_six (y : BitVec 4) (b : Byte) :
    (y ++ b.extractLsb' 6 2).extractLsb' 0 2 ++ b.extractLsb' 0 6 = b := by
  rw [BitVec.extractLsb'_append_eq_right, BitVec.extractLsb'_append_extractLsb'_eq_extractLsb' (by decide)]
  exact BitVec.extractLsb'_eq_self

/-- The value of an encoded text is what was encoded, group by group. -/
theorem decValue_enc (hcfg : ValidConfig c) (b : List Byte) : decValue c (enc c b) = b := by
  obtain ⟨hnd, hpad, -⟩ := hcfg
  have hindex (i : Index) : indexOrZero c (symbolOf c i) = i := indexOrZero_of_indexOf (indexOf_symbolOf hnd i)
  have hne (i : Index) : symbolOf c i ≠ padSym := encLut_ne_padSym hpad i
  induction b using enc.induct with
  | case1 => rfl
  | case2 b0 =>
    simp only [enc, decValue, decChars_two_padding, hindex, split_six_two, List.append_nil]
  | case3 b0 b1 =>
    simp only [enc, decValue, decChars_one_padding _ _ (hne _), hindex, split_six_two, split_four_four, List.append_nil]
  | case4 b0 b1 b2 rest ih =>
    simp only [enc, decValue, decChars_unpadded _ _ (hne _) (hne _), hindex, split_six_two, split_four_four,
      split_two_six, ih, List.cons_append, List.nil_append]

theorem wellFormedText_enc (hcfg : ValidConfig c) (b : List Byte) : WellFormedText c (enc c b) := by
  obtain ⟨body, htext, hbody⟩ := symbolsThenPadding_enc c b
  refine ⟨by rw [enc_length]; omega, body, _, htext, by omega, fun x hx => ?_⟩
  obtain ⟨i, rfl⟩ := hbody x hx
  exact ⟨i, classOf_symbolOf hcfg.1 i⟩

theorem dec_of_wellFormedText (hpad : padSym ∉ c.alphabet.toList) (h : WellFormedText c t) :
    dec c t = .ok (decValue c t) :=
  dec_eq_ok_iff.mpr ⟨clean_of_wellFormedText hpad h, h.1, rfl⟩

theorem dec_enc (hcfg : ValidConfig c) (b : List Byte) : dec c (enc c b) = .ok b := by
  rw [dec_of_wellFormedText hcfg.2.1 (wellFormedText_enc hcfg b), decValue_enc hcfg]

theorem wellFormedText_of_dec {bytes : List Byte} (hpad : padSym ∉ c.alphabet.toList) (h : dec c t = .ok bytes) :
    WellFormedText c t := by
  obtain ⟨hclean, hlen, -⟩ := dec_eq_ok_iff.mp h
  exact wellFormedText_of_clean hpad hclean hlen

/-! ### A padded group after whole unpadded groups -/

/-- A text that decodes and has no PAD, with two or three more symbols and the PAD that complete the group. -/
theorem dec_append_padded {bytes syms : List Byte} {n : Nat} (hpad : padSym ∉ c.alphabet.toList) (hb : padSym ∉ a)
    (ha : dec c a = .ok bytes) (hsyms : ∀ x ∈ syms, ∃ i, classOf c x = .sym i) (hn : n ≤ 2)
    (hlen : syms.length + n = 4) :
    dec c (a ++ (syms ++ List.replicate n padSym)) = .ok (bytes ++ decValue c (syms ++ List.replicate n padSym)) := by
  obtain ⟨hclean, hlen4, rfl⟩ := dec_eq_ok_iff.mp ha
  have hwf : WellFormedText c (a ++ (syms ++ List.replicate n padSym)) := by
    refine ⟨by simp; omega, a ++ syms, n, by simp, hn, fun x hx => ?_⟩
    obtain hx | hx := List.mem_append.mp hx
    · exact exists_sym_of_clean hpad hclean hx fun he => hb (he ▸ hx)
    · exact hsyms x hx
  rw [dec_of_wellFormedText hpad hwf, decValue_append hlen4]

theorem ne_padSym_of_indexOf {i : Index} (hpad : padSym ∉ c.alphabet.toList) (h : indexOf c x = some i) :
    x ≠ padSym := by
  intro hx
  have hsym := classOf_eq_sym.mpr h
  rw [(classOf_eq_padc_iff hpad).mpr hx] at hsym
  contradiction

theorem dec_one_padding {bytes : List Byte} {c0 c1 c2 : Byte} {i0 i1 i2 : Index} (hpad : padSym ∉ c.alphabet.toList)
    (hb : padSym ∉ a) (ha : dec c a = .ok bytes) (h0 : indexOf c c0 = some i0) (h1 : indexOf c c1 = some i1)
    (h2 : indexOf c c2 = some i2) : dec c (a ++ [c0, c1, c2, padSym]) =
      .ok (bytes ++ [i0 ++ i1.extractLsb' 4 2, i1.extractLsb' 0 4 ++ i2.extractLsb' 2 4]) := by
  have hsyms : ∀ x ∈ [c0, c1, c2], ∃ i, classOf c x = .sym i := by
    simp [classOf_eq_sym, h0, h1, h2]
  have h := dec_append_padded (n := 1) hpad hb ha hsyms (by decide) rfl
  simpa [List.replicate, decValue, decChars_one_padding c0 c1 (ne_padSym_of_indexOf hpad h2), indexOrZero_of_indexOf, h0,
    h1, h2] using h

theorem dec_two_padding {bytes : List Byte} {c0 c1 : Byte} {i0 i1 : Index} (hpad : padSym ∉ c.alphabet.toList)
    (hb : padSym ∉ a) (ha : dec c a = .ok bytes) (h0 : indexOf c c0 = some i0) (h1 : indexOf c c1 = some i1) :
    dec c (a ++ [c0, c1, padSym, padSym]) = .ok (bytes ++ [i0 ++ i1.extractLsb' 4 2]) := by
  have hsyms : ∀ x ∈ [c0, c1], ∃ i, classOf c x = .sym i := by
    simp [classOf_eq_sym, h0, h1]
  have h := dec_append_padded (n := 2) hpad hb ha hsyms (by decide) rfl
  simpa [List.replicate, decValue, decChars_two_padding, indexOrZero_of_indexOf, h0, h1] using h

end Sys2Proof.Proofs.DecodedText
end

section
namespace Sys2Proof.Proofs

open Sys2Proof Sys2Proof.Machine Sys2Proof.Proofs.Invariants Sys2Proof.Proofs.DecodedText

/-- Settles O51: an encoded text is well formed, and its value is what was encoded. -/
theorem decodeOfEncodedBytes : Obligations.DecodeOfEncodedBytes := fun _ b hcfg => dec_enc hcfg b

/-- Settles O53: a PAD in a clean text stands in its last group, and a text with its PAD there is clean. -/
theorem exactlyWellFormedTextDecodes : Obligations.ExactlyWellFormedTextDecodes := fun _ _ hcfg =>
  ⟨fun ⟨_, h⟩ => wellFormedText_of_dec hcfg.2.1 h, fun h => ⟨_, dec_of_wellFormedText hcfg.2.1 h⟩⟩

/-- Settles O52: a text that decodes is symbols and one or two PAD, and each PAD costs its group a byte. -/
theorem decodedLength : Obligations.DecodedLength := by
  intro c t bytes hcfg h
  obtain ⟨hlen, body, n, rfl, hn, hbody⟩ := wellFormedText_of_dec hcfg.2.1 h
  obtain ⟨-, -, rfl⟩ := dec_eq_ok_iff.mp h
  have hnbody : padSym ∉ body := fun hmem => by
    obtain ⟨i, hi⟩ := hbody padSym hmem
    rw [(classOf_eq_padc_iff hcfg.2.1).mpr rfl] at hi
    contradiction
  have hcount : (body ++ List.replicate n padSym).count padSym = n := by
    rw [List.count_append, List.count_eq_zero.mpr hnbody, List.count_replicate_self, Nat.zero_add]
  simp only [List.length_append, List.length_replicate] at hlen ⊢
  rw [hcount]
  exact ⟨hn, decValue_length hnbody hn hlen⟩

/-- Settles O54: the bytes of a padded group are written out, and the discarded bits do not occur in them. -/
theorem discardedBitsAreIgnored : Obligations.DiscardedBitsAreIgnored := by
  intro c a bytes c0 c1 c1' c2 c2' i0 i1 i1' i2 i2' hcfg hb ha h0 h1 h1' h2 h2'
  have hpad := hcfg.2.1
  refine ⟨fun hbits => ⟨?_, dec_one_padding hpad hb ha h0 h1 h2⟩, fun hbits => ⟨?_, dec_two_padding hpad hb ha h0 h1⟩⟩
  · rw [dec_one_padding hpad hb ha h0 h1 h2, dec_one_padding hpad hb ha h0 h1 h2', hbits]
  · rw [dec_two_padding hpad hb ha h0 h1, dec_two_padding hpad hb ha h0 h1', hbits]

/-- Settles O55: the first bad character is `x`, or one before it, which is no BAD character and so raises
InvalidPadding. -/
theorem textWithABadCharacterIsRejected : Obligations.TextWithABadCharacterIsRejected := by
  intro c before after x hx hbefore
  obtain h | ⟨a, ch, rest, kind, rfl, h, hbad⟩ := clean_or_bad c before
  · exact .inl (dec_of_bad h (by simp [badAt, hx]) after)
  · obtain ⟨-, hch⟩ | ⟨rfl, -⟩ := badAt_kind hbad
    · exact absurd hch (hbefore ch (by simp))
    · refine .inr ⟨a.length, by simp, ?_⟩
      rw [List.append_assoc, List.cons_append]
      exact dec_of_bad h hbad _

end Sys2Proof.Proofs
end

section
/-! The layouts of a group in ACC (30_encoding.md R73 to R76): 24 bits as three bytes and as four indices, what is placed
in them and what is read out of them. -/
namespace Sys2Proof.Proofs.GroupLayout

open Sys2Proof Sys2Proof.Machine BitVec

/-- A slice that spans the seam of a concatenation. -/
theorem extractLsb'_append_span {v w start a b : Nat} (x : BitVec v) (y : BitVec w) (h : start + b = w) :
    (x ++ y).extractLsb' start (a + b) = x.extractLsb' 0 a ++ y.extractLsb' start b := by
  refine eq_of_getLsbD_eq fun j hj => ?_
  rw [getLsbD_append, getLsbD_extractLsb', getLsbD_append, getLsbD_extractLsb', getLsbD_extractLsb']
  by_cases hjb : j < b
  · simp [hj, hjb, show start + j < w by omega]
  · simp [hj, hjb, show ¬ start + j < w by omega, show start + j - w = j - b by omega, show j - b < a by omega]

/-- Associativity of the concatenation, its widths apart. -/
theorem toNat_append_append {u v w : Nat} (x : BitVec u) (y : BitVec v) (z : BitVec w) :
    (x ++ (y ++ z)).toNat = (x ++ y ++ z).toNat := by
  rw [append_assoc, toNat_cast]

/-! ### Three bytes -/

/-- A group as three bytes (R75). -/
def triple (x y z : Byte) : Group := x ++ y ++ z

variable (b x y z : Byte)

theorem placeByte_zero_triple : placeByte 0#2 b (triple x y z) = triple b y z := by
  have hlow : (triple x y z).extractLsb' 0 16 = y ++ z :=
    (extractLsb'_append_span (x ++ y) z (a := 8) (b := 8) rfl).trans
      (by rw [extractLsb'_append_eq_right, extractLsb'_eq_self])
  refine eq_of_toNat_eq ?_
  simp only [placeByte]
  rw [hlow]
  exact toNat_append_append b y z

theorem placeByte_one_triple : placeByte 1#2 b (triple x y z) = triple x b z := by
  have hhigh : (triple x y z).extractLsb' 16 8 = x :=
    (extractLsb'_append_eq_of_le (by decide)).trans extractLsb'_append_eq_left
  have hlow : (triple x y z).extractLsb' 0 8 = z := extractLsb'_append_eq_right
  simp only [placeByte]
  rw [hhigh, hlow]
  rfl

theorem placeByte_two_triple : placeByte 2#2 b (triple x y z) = triple x y b :=
  congrArg (· ++ b) (extractLsb'_append_eq_left : (triple x y z).extractLsb' 8 16 = x ++ y)

theorem field0_triple : field0 (triple x y z) = x.extractLsb' 2 6 :=
  (extractLsb'_append_eq_of_le (by decide)).trans (extractLsb'_append_eq_of_le (by decide))

theorem field1_triple : field1 (triple x y z) = x.extractLsb' 0 2 ++ y.extractLsb' 4 4 :=
  (extractLsb'_append_eq_of_le (by decide)).trans (extractLsb'_append_span x y (a := 2) (b := 4) rfl)

theorem field2_triple : field2 (triple x y z) = y.extractLsb' 0 4 ++ z.extractLsb' 6 2 := by
  refine (extractLsb'_append_span (x ++ y) z (a := 4) (b := 2) rfl).trans ?_
  rw [extractLsb'_append_eq_of_add_le (by decide)]

theorem field3_triple : field3 (triple x y z) = z.extractLsb' 0 6 := extractLsb'_append_eq_of_add_le (by decide)

/-! ### Four indices -/

/-- A group as four indices (R73). -/
def quad (i j k l : Index) : Group := i ++ j ++ k ++ l

variable (n i j k l : Index)

theorem placeIndex_zero_quad : placeIndex 0#2 n (quad i j k l) = quad n j k l := by
  have hmid : (i ++ j ++ k).extractLsb' 0 12 = j ++ k :=
    (extractLsb'_append_span (i ++ j) k (a := 6) (b := 6) rfl).trans
      (by rw [extractLsb'_append_eq_right, extractLsb'_eq_self])
  have hlow : (quad i j k l).extractLsb' 0 18 = j ++ k ++ l :=
    (extractLsb'_append_span (i ++ j ++ k) l (a := 12) (b := 6) rfl).trans (by rw [hmid, extractLsb'_eq_self])
  refine eq_of_toNat_eq ?_
  simp only [placeIndex]
  rw [hlow]
  calc (n ++ (j ++ k ++ l)).toNat = (n ++ (j ++ k) ++ l).toNat := toNat_append_append n (j ++ k) l
    _ = (n ++ j ++ k ++ l).toNat := by rw [toNat_append, toNat_append_append n j k, ← toNat_append]

theorem placeIndex_one_quad : placeIndex 1#2 n (quad i j k l) = quad i n k l := by
  have hhigh : (quad i j k l).extractLsb' 18 6 = i :=
    (extractLsb'_append_eq_of_le (by decide)).trans
      ((extractLsb'_append_eq_of_le (by decide)).trans extractLsb'_append_eq_left)
  have hlow : (quad i j k l).extractLsb' 0 12 = k ++ l :=
    (extractLsb'_append_span (i ++ j ++ k) l (a := 6) (b := 6) rfl).trans
      (by rw [extractLsb'_append_eq_right, extractLsb'_eq_self])
  refine eq_of_toNat_eq ?_
  simp only [placeIndex]
  rw [hhigh, hlow]
  exact toNat_append_append (i ++ n) k l

theorem placeIndex_two_quad : placeIndex 2#2 n (quad i j k l) = quad i j n l := by
  have hhigh : (quad i j k l).extractLsb' 12 12 = i ++ j :=
    (extractLsb'_append_eq_of_le (by decide)).trans extractLsb'_append_eq_left
  have hlow : (quad i j k l).extractLsb' 0 6 = l := extractLsb'_append_eq_right
  simp only [placeIndex]
  rw [hhigh, hlow]
  rfl

theorem placeIndex_three_quad : placeIndex 3#2 n (quad i j k l) = quad i j k n :=
  congrArg (· ++ n) (extractLsb'_append_eq_left : (quad i j k l).extractLsb' 6 18 = i ++ j ++ k)

theorem byte0_quad : byte0 (quad i j k l) = i ++ j.extractLsb' 4 2 := by
  refine (extractLsb'_append_eq_of_le (by decide)).trans ((extractLsb'_append_eq_of_le (by decide)).trans ?_)
  exact (extractLsb'_append_span i j (a := 6) (b := 2) rfl).trans (by rw [extractLsb'_eq_self])

theorem byte1_quad : byte1 (quad i j k l) = j.extractLsb' 0 4 ++ k.extractLsb' 2 4 := by
  refine (extractLsb'_append_eq_of_le (by decide)).trans
    ((extractLsb'_append_span (i ++ j) k (a := 4) (b := 4) rfl).trans ?_)
  rw [extractLsb'_append_eq_of_add_le (by decide)]

theorem byte2_quad : byte2 (quad i j k l) = k.extractLsb' 0 2 ++ l := by
  refine (extractLsb'_append_span (i ++ j ++ k) l (a := 2) (b := 6) rfl).trans ?_
  rw [extractLsb'_append_eq_of_add_le (by decide), extractLsb'_eq_self]

end Sys2Proof.Proofs.GroupLayout
end

section
/-! The open group of a stream against the items put in so far (10_state.md R25 to R28): in encode ACC holds the bytes after
the whole groups, in decode the indices, with PADS and FIN as the text's last PAD has them. An item more is taken in or
completes the group, as the transform has it. -/
namespace Sys2Proof.Proofs.OpenGroup

open Sys2Proof Sys2Proof.Machine Sys2Proof.Proofs.DecodePut Sys2Proof.Proofs.Effects Sys2Proof.Proofs.Invariants
  Sys2Proof.Proofs.EncodedText Sys2Proof.Proofs.DecodedText Sys2Proof.Proofs.GroupLayout

variable {c : Config} {e : Engine} {t b rest : List Byte} {x ch : Byte}

/-! ### Encode -/

/-- ACC with the bytes of an open group. -/
def encAcc (rest : List Byte) : Group := triple (rest.getD 0 0#8) (rest.getD 1 0#8) (rest.getD 2 0#8)

theorem placeByte_encAcc {cnt : BitVec 2} (hcnt : rest.length = cnt.toNat) (hlt : cnt.toNat < 3) (x : Byte) :
    placeByte cnt x (encAcc rest) = encAcc (rest ++ [x]) := by
  match rest with
  | [] =>
    obtain rfl : cnt = 0#2 := BitVec.eq_of_toNat_eq hcnt.symm
    exact placeByte_zero_triple x _ _ _
  | [_] =>
    obtain rfl : cnt = 1#2 := BitVec.eq_of_toNat_eq hcnt.symm
    exact placeByte_one_triple x _ _ _
  | [_, _] =>
    obtain rfl : cnt = 2#2 := BitVec.eq_of_toNat_eq hcnt.symm
    exact placeByte_two_triple x _ _ _
  | _ :: _ :: _ :: _ =>
    simp only [List.length_cons] at hcnt
    omega

/-- The characters of a full group are its encoding (R73). -/
theorem encGroup_encAcc (h : rest.length = 3) : encGroup c (encAcc rest) = enc c rest := by
  match rest with
  | [_, _, _] => simp [encGroup, encAcc, enc, symbolOf, field0_triple, field1_triple, field2_triple, field3_triple]

/-- The characters of the final partial group are its encoding (R74): the positions not filled are 0. -/
theorem encTail_encAcc {cnt : BitVec 2} (hcnt : rest.length = cnt.toNat) (hlt : cnt.toNat < 3) :
    encTail c cnt (encAcc rest) = enc c rest := by
  match rest with
  | [] =>
    obtain rfl : cnt = 0#2 := BitVec.eq_of_toNat_eq hcnt.symm
    rfl
  | [_] =>
    obtain rfl : cnt = 1#2 := BitVec.eq_of_toNat_eq hcnt.symm
    simp [encTail, encAcc, enc, symbolOf, field0_triple, field1_triple]
  | [_, _] =>
    obtain rfl : cnt = 2#2 := BitVec.eq_of_toNat_eq hcnt.symm
    simp [encTail, encAcc, enc, symbolOf, field0_triple, field1_triple, field2_triple]
  | _ :: _ :: _ :: _ =>
    simp only [List.length_cons] at hcnt
    omega

/-! ### Decode -/

/-- ACC with the characters of an open group: a PAD has no index and leaves its position 0. -/
def decAcc (c : Config) (rest : List Byte) : Group :=
  quad ((rest.map (indexOrZero c)).getD 0 0#6) ((rest.map (indexOrZero c)).getD 1 0#6)
    ((rest.map (indexOrZero c)).getD 2 0#6) ((rest.map (indexOrZero c)).getD 3 0#6)

@[simp] theorem decAcc_nil (c : Config) : decAcc c [] = 0#24 := by
  simp only [decAcc, List.map_nil, List.getD_nil]
  rfl

theorem indexOrZero_padSym (hpad : padSym ∉ c.alphabet.toList) : indexOrZero c padSym = 0#6 := by
  rw [indexOrZero, indexOf, LookupTables.decLut_of_not_mem hpad]
  rfl

theorem placeIndex_decAcc {cnt : BitVec 2} (hcnt : rest.length = cnt.toNat) (ch : Byte) :
    placeIndex cnt (indexOrZero c ch) (decAcc c rest) = decAcc c (rest ++ [ch]) := by
  have hlt := cnt.isLt
  match rest with
  | [] =>
    obtain rfl : cnt = 0#2 := BitVec.eq_of_toNat_eq hcnt.symm
    exact placeIndex_zero_quad _ _ _ _ _
  | [_] =>
    obtain rfl : cnt = 1#2 := BitVec.eq_of_toNat_eq hcnt.symm
    exact placeIndex_one_quad _ _ _ _ _
  | [_, _] =>
    obtain rfl : cnt = 2#2 := BitVec.eq_of_toNat_eq hcnt.symm
    exact placeIndex_two_quad _ _ _ _ _
  | [_, _, _] =>
    obtain rfl : cnt = 3#2 := BitVec.eq_of_toNat_eq hcnt.symm
    exact placeIndex_three_quad _ _ _ _ _
  | _ :: _ :: _ :: _ :: _ =>
    simp only [List.length_cons] at hcnt
    omega

theorem decAcc_append_padSym (hpad : padSym ∉ c.alphabet.toList) (h : rest.length ≤ 3) :
    decAcc c (rest ++ [padSym]) = decAcc c rest := by
  match rest with
  | [] | [_] | [_, _] | [_, _, _] => simp [decAcc, indexOrZero_padSym hpad]
  | _ :: _ :: _ :: _ :: _ =>
    simp only [List.length_cons] at h
    omega

/-- A character that passes the checks is taken into its place of ACC. -/
theorem takeChar_acc (hpad : padSym ∉ c.alphabet.toList) (hch : nia (decLut c ch) = false ∨ ch = padSym)
    (hcnt : rest.length = e.cnt.toNat) (hacc : e.acc = decAcc c rest) :
    (takeChar c ch e).acc = decAcc c (rest ++ [ch]) := by
  have hlt := e.cnt.isLt
  by_cases hx : ch = padSym
  · rw [hx, takeChar_padSym, decAcc_append_padSym hpad (by omega)]
    exact hacc
  · have hindex : indexOrZero c ch = entryIndex (decLut c ch) :=
      indexOrZero_of_indexOf (indexOf_eq_some.mpr ⟨hch.resolve_right hx, rfl⟩)
    rw [← placeIndex_decAcc hcnt, hindex, ← hacc, takeChar, isPad_of_ne hx]
    rfl

theorem takeChar_pads (c : Config) (ch : Byte) (e : Engine) :
    (takeChar c ch e).pads = e.pads + if ch = padSym then 1#2 else 0#2 := by
  by_cases hx : ch = padSym
  · rw [hx, takeChar_padSym, if_pos rfl]
  · simp [takeChar, isPad_of_ne hx, hx]

/-- The bytes of a completed group are its value (R75, R76), PADS being the number of PAD in it. -/
theorem decGroup_decAcc {pads : BitVec 2} {c0 c1 c2 : Byte} (hlast : c2 = padSym → ch = padSym)
    (hpads : pads = (if c2 = padSym then 1#2 else 0#2) + (if ch = padSym then 1#2 else 0#2)) :
    decGroup pads (decAcc c [c0, c1, c2, ch]) = decChars c c0 c1 c2 ch := by
  by_cases h2 : c2 = padSym
  · rw [h2, decChars_two_padding]
    simp [hpads, h2, hlast h2, decGroup, decAcc, byte0_quad]
  · by_cases h3 : ch = padSym
    · rw [h3, decChars_one_padding _ _ h2]
      simp [hpads, h2, h3, decGroup, decAcc, byte0_quad, byte1_quad]
    · rw [decChars_unpadded _ _ h2 h3]
      simp [hpads, h2, h3, decGroup, decAcc, byte0_quad, byte1_quad, byte2_quad]

end Sys2Proof.Proofs.OpenGroup
end

section
/-! A stream item by item (41_encode.md R90, 42_decode.md R98 against R88, R96): what the registers of the open group say of
the items put in, and how PUT of an admissible item advances them together with what is put out. -/
namespace Sys2Proof.Proofs.StreamItems

open Sys2Proof Sys2Proof.Machine Sys2Proof.Proofs.DecodePut Sys2Proof.Proofs.Effects Sys2Proof.Proofs.Invariants
  Sys2Proof.Proofs.EncodedText Sys2Proof.Proofs.DecodedText Sys2Proof.Proofs.OpenGroup

variable {c : Config} {d : Dir} {e e' : Engine} {s t : State} {b b' rest text : List Byte} {x ch : Byte}

/-! ### The open group -/

/-- In encode: CNT and ACC hold the bytes after the whole groups of `b`. -/
structure EncGroup (b : List Byte) (e : Engine) : Prop where
  cnt : e.cnt.toNat = b.length % 3
  acc : ∃ whole rest, b = whole ++ rest ∧ whole.length % 3 = 0 ∧ rest.length = b.length % 3 ∧ e.acc = encAcc rest

/-- In decode: CNT and ACC hold the characters after the whole groups of `text`, PADS says that the last of them is PAD, and
FIN that the last whole group ended in PAD. -/
structure DecGroup (c : Config) (text : List Byte) (e : Engine) : Prop where
  clean : Clean c text
  cnt : e.cnt.toNat = text.length % 4
  acc : ∃ whole rest, text = whole ++ rest ∧ whole.length % 4 = 0 ∧ rest.length = text.length % 4 ∧
    e.acc = decAcc c rest
  pads : e.pads = if text.length % 4 = 3 ∧ padAt text (text.length - 1) = true then 1#2 else 0#2
  fin : e.fin = true ↔ 4 ≤ text.length ∧ padAt text (text.length - text.length % 4 - 1) = true

/-- The open group of a stream in the direction `d` after the items `b`. -/
def GroupState (c : Config) : Dir → List Byte → Engine → Prop
  | .encode, b, e => EncGroup b e
  | .decode, text, e => DecGroup c text e

/-- The open group is ACC, CNT, PADS and FIN. -/
theorem GroupState.congr (h : GroupState c d b e) (hacc : e'.acc = e.acc) (hcnt : e'.cnt = e.cnt)
    (hpads : e'.pads = e.pads) (hfin : e'.fin = e.fin) : GroupState c d b e' := by
  cases d with
  | encode => exact ⟨hcnt ▸ h.cnt, hacc ▸ h.acc⟩
  | decode => exact ⟨h.clean, hcnt ▸ h.cnt, hacc ▸ h.acc, hpads ▸ h.pads, hfin ▸ h.fin⟩

theorem groupState_nil (c : Config) (d : Dir) (hacc : e.acc = 0#24) (hcnt : e.cnt = 0#2) (hpads : e.pads = 0#2)
    (hfin : e.fin = false) : GroupState c d [] e := by
  cases d with
  | encode => exact ⟨by simp [hcnt], [], [], rfl, rfl, rfl, hacc⟩
  | decode => exact ⟨rfl, by simp [hcnt], ⟨[], [], rfl, rfl, rfl, by rw [hacc, decAcc_nil]⟩, by simp [hpads], by simp [hfin]⟩

/-! ### What is put out -/

/-- What a stream of the items `b` has put out before END: the transform of its whole groups. -/
def outOf (c : Config) : Dir → List Byte → List Byte
  | .encode, b => enc c (b.take (b.length - b.length % 3))
  | .decode, text => decValue c text

theorem outOf_encode_append {whole : List Byte} (hwhole : whole.length % 3 = 0) (hrest : rest.length < 3) :
    outOf c .encode (whole ++ rest) = enc c whole := by
  have hlen : (whole ++ rest).length - (whole ++ rest).length % 3 = whole.length := by
    rw [List.length_append]
    omega
  rw [outOf, hlen, List.take_left]

theorem outOf_decode_append {whole : List Byte} (hwhole : whole.length % 4 = 0) (hrest : rest.length < 4) :
    outOf c .decode (whole ++ rest) = decValue c whole := by
  rw [outOf, decValue_append hwhole, decValue_of_length_lt_four hrest, List.append_nil]

/-- The items a session puts out are a beginning of the encoding of any longer input. -/
theorem outOf_encode_prefix (c : Config) (b b' : List Byte) : outOf c .encode b <+: enc c (b ++ b') := by
  rw [outOf, ← List.take_append_drop (b.length - b.length % 3) b, List.append_assoc, enc_append]
  · simp
  · rw [List.length_take]
    omega

/-! ### One item -/

/-- The items a stream accepts: any bytes in encode, clean text in decode. -/
def Admits (c : Config) : Dir → List Byte → Prop
  | .encode, _ => True
  | .decode, text => Clean c text

theorem Admits.of_append (h : Admits c d (b ++ b')) : Admits c d b := by
  cases d with
  | encode => trivial
  | decode => exact clean_of_append h

/-- PUT of `x` after the items `b`: it takes `x` in, or completes a group and reaches the chunk rule; the open group and what
is put out are then those of `b ++ [x]`. -/
def Advances (c : Config) (d : Dir) (b : List Byte) (x : Byte) (t : State) : Prop :=
  (∃ e, Takes t x e ∧ GroupState c d (b ++ [x]) e ∧ outOf c d (b ++ [x]) = outOf c d b) ∨
  ∃ e added, ReachesFlush t (.put x) false e countItem ∧ e.obuf = t.eng.obuf ++ added ∧ GroupState c d (b ++ [x]) e ∧
    outOf c d (b ++ [x]) = outOf c d b ++ added

theorem advances_encode (hs : t.eng.state = .run) (hd : t.eng.dir = .encode) (hg : EncGroup b t.eng) (x : Byte) :
    Advances t.cfg .encode b x t := by
  obtain ⟨hcnt, whole, rest, rfl, hwhole, hrest, hacc⟩ := hg
  have hlt : t.eng.cnt.toNat < 3 := by omega
  have hplace := placeByte_encAcc (hrest.trans hcnt.symm) hlt x
  have hlen : (rest ++ [x]).length = rest.length + 1 := by simp
  rw [← hacc] at hplace
  simp only [List.length_append] at hrest hcnt
  by_cases hc : t.eng.cnt < 2#2
  · have hcl : t.eng.cnt.toNat < 2 := BitVec.lt_def.mp hc
    refine .inl ⟨_, .encode hd hc, ⟨?_, whole, rest ++ [x], List.append_assoc _ _ _, hwhole, ?_, hplace⟩, ?_⟩
    · simp only [List.length_append, List.length_singleton]
      bv_omega
    · simp only [List.length_append, List.length_singleton]
      omega
    · rw [List.append_assoc, outOf_encode_append hwhole (by omega), outOf_encode_append hwhole (by omega)]
  · have hcl : t.eng.cnt.toNat = 2 := by bv_omega
    refine .inr ⟨_, enc t.cfg (rest ++ [x]), .putEncode hs hd hc, ?_,
      ⟨?_, whole ++ (rest ++ [x]), [], by simp, ?_, ?_, rfl⟩, ?_⟩
    · rw [encClosed, hplace, encGroup_encAcc (by omega)]
    · simp only [encClosed, List.length_append, List.length_singleton]
      simp
      omega
    · rw [List.length_append]
      omega
    · simp only [List.length_append, List.length_singleton, List.length_nil]
      omega
    · have hclosed := outOf_encode_append (c := t.cfg) (whole := whole ++ (rest ++ [x])) (rest := [])
        (by rw [List.length_append]; omega) (by decide)
      rw [List.append_nil] at hclosed
      rw [List.append_assoc, hclosed, enc_append hwhole, outOf_encode_append hwhole (by omega)]

/-- The four checks of R98 on the registers are the five cases of R96 step 1 on the text. -/
theorem checkChar_eq_badAt (hpad : padSym ∉ c.alphabet.toList) (hg : DecGroup c text e) (ch : Byte) :
    checkChar c e ch = badAt c text text.length ch := by
  have hcnt : e.cnt < 2#2 ↔ text.length % 4 < 2 := by rw [BitVec.lt_def, hg.cnt]; rfl
  have hpads : 0#2 < e.pads ↔ text.length % 4 = 3 ∧ padAt text (text.length - 1) = true := by
    rw [hg.pads]
    split <;> simp [*]
  rw [checkChar_eq hpad]
  unfold badAt
  by_cases hclass : classOf c ch = .padc <;> simp only [hg.fin, hcnt, hpads, hclass] <;> simp [hclass]

theorem padAt_append_singleton : padAt (text ++ [ch]) text.length = true ↔ ch = padSym := by simp [padAt]

/-- A character taken in that does not complete its group. -/
theorem decGroup_taken (hpadc : padSym ∉ c.alphabet.toList) (hg : DecGroup c text e)
    (hclean : Clean c (text ++ [ch])) (hok : checkChar c e ch = none) (hc : e.cnt < 3#2) :
    DecGroup c (text ++ [ch]) { takeChar c ch e with cnt := e.cnt + 1#2 } := by
  obtain ⟨hch, -, hpad, -⟩ := checkChar_eq_none hok
  obtain ⟨-, hcnt, ⟨whole, rest, htext, hwhole, hrest, hacc⟩, hpads, hfin⟩ := hg
  have hlt : text.length % 4 < 3 := hcnt ▸ BitVec.lt_def.mp hc
  have hlen : (text ++ [ch]).length = text.length + 1 := by simp
  refine ⟨hclean, ?_, ⟨whole, rest ++ [ch], by rw [htext, List.append_assoc], hwhole, ?_,
    takeChar_acc hpadc hch (hrest.trans hcnt.symm) hacc⟩, ?_, ?_⟩
  · simp only [hlen]
    bv_omega
  · rw [List.length_append, List.length_singleton, hlen]
    omega
  · have hzero : e.pads = 0#2 := hpads.trans (if_neg fun h => by omega)
    simp only [hlen, Nat.add_sub_cancel, padAt_append_singleton, takeChar_pads, hzero]
    by_cases hx : ch = padSym
    · have htwo : ¬ e.cnt.toNat < 2 := fun h => hpad hx (BitVec.lt_def.mpr h)
      rw [if_pos hx, if_pos ⟨by omega, hx⟩]
      rfl
    · rw [if_neg hx, if_neg fun h => hx h.2]
      rfl
  · simp only [takeChar_fin, hfin, hlen]
    rw [show text.length + 1 - (text.length + 1) % 4 - 1 = text.length - text.length % 4 - 1 by omega]
    refine ⟨fun ⟨h4, hp⟩ => ⟨by omega, by rwa [padAt_append_left (by omega)]⟩, fun ⟨h4, hp⟩ => ⟨by omega, ?_⟩⟩
    rwa [padAt_append_left (by omega)] at hp

/-- A character that completes its group: the group's bytes are put out, and FIN says whether it is padded. -/
theorem decGroup_closed (hpadc : padSym ∉ c.alphabet.toList) (hg : DecGroup c text e)
    (hclean : Clean c (text ++ [ch])) (hok : checkChar c e ch = none) (hc : ¬ e.cnt < 3#2) :
    DecGroup c (text ++ [ch]) (closeGroup (takeChar c ch e)) ∧
      outOf c .decode (text ++ [ch]) =
        outOf c .decode text ++ decGroup (takeChar c ch e).pads (takeChar c ch e).acc := by
  obtain ⟨hch, hfin, -, hsym⟩ := checkChar_eq_none hok
  obtain ⟨-, hcnt, ⟨whole, rest, htext, hwhole, hrest, hacc⟩, hpads, -⟩ := hg
  have hthree : text.length % 4 = 3 := by bv_omega
  have hlen : (text ++ [ch]).length = text.length + 1 := by simp
  have htake := takeChar_acc hpadc hch (hrest.trans hcnt.symm) hacc
  obtain ⟨c0, c1, c2, rfl⟩ := List.length_eq_three.mp (hrest.trans hthree)
  have hc2 : padAt text (text.length - 1) = true ↔ c2 = padSym := by
    rw [htext]
    simp [padAt]
  simp only [hthree, true_and, hc2] at hpads
  refine ⟨⟨hclean, ?_, ⟨text ++ [ch], [], by simp, ?_, ?_, by simp⟩, ?_, ?_⟩, ?_⟩
  · simp
    omega
  · omega
  · simp
    omega
  · exact (if_neg fun h => by omega).symm
  · have hfour : text.length + 1 - (text.length + 1) % 4 - 1 = text.length := by omega
    rw [closeGroup_fin, takeChar_fin, hfin, hlen, hfour, padAt_append_singleton, Bool.false_or, decide_eq_true_eq,
      takeChar_pads]
    by_cases hx : ch = padSym
    · rw [if_pos hx, hpads]
      refine iff_of_true ?_ ⟨by omega, hx⟩
      split <;> decide
    · simp [hx, hsym hx]
  · have hout : outOf c .decode (whole ++ [c0, c1, c2]) = decValue c whole := outOf_decode_append hwhole (by simp)
    have hgroup := decGroup_decAcc (c := c) (c0 := c0) (c1 := c1) (c2 := c2) (ch := ch)
      (pads := (takeChar c ch e).pads) (fun h2 => by
        by_contra hx
        simp [hsym hx, h2] at hpads) (by rw [takeChar_pads, hpads])
    rw [htake, List.cons_append, List.cons_append, List.cons_append, List.nil_append, hgroup, htext, hout, outOf,
      List.append_assoc, decValue_append hwhole]
    simp [decValue]

theorem advances_decode (hcfg : ValidConfig t.cfg) (hs : t.eng.state = .run) (hd : t.eng.dir = .decode)
    (hg : DecGroup t.cfg text t.eng) (hclean : Clean t.cfg (text ++ [ch])) : Advances t.cfg .decode text ch t := by
  have hok : checkChar t.cfg t.eng ch = none :=
    (checkChar_eq_badAt hcfg.2.1 hg ch).trans ((clean_append_singleton hg.clean).mp hclean)
  by_cases hc : t.eng.cnt < 3#2
  · have hrest : text.length % 4 < 3 := hg.cnt ▸ BitVec.lt_def.mp hc
    obtain ⟨whole, rest, htext, hwhole, hlen, -⟩ := hg.acc
    refine .inl ⟨_, .decode hd hok hc, decGroup_taken hcfg.2.1 hg hclean hok hc, ?_⟩
    rw [htext, List.append_assoc, outOf_decode_append hwhole (by simp; omega), outOf_decode_append hwhole (by omega)]
  · obtain ⟨hclosed, hout⟩ := decGroup_closed hcfg.2.1 hg hclean hok hc
    exact .inr ⟨_, _, .putDecode hs hd hok hc, by rw [closeGroup_obuf, takeChar_obuf], hclosed, hout⟩

theorem advances (hcfg : ValidConfig t.cfg) (hs : t.eng.state = .run) (hd : t.eng.dir = d)
    (hg : GroupState t.cfg d b t.eng) (hb : Admits t.cfg d (b ++ [x])) : Advances t.cfg d b x t := by
  cases d with
  | encode => exact advances_encode hs hd hg x
  | decode => exact advances_decode hcfg hs hd hg hb

end Sys2Proof.Proofs.StreamItems
end

section
/-! Sessions (41_encode.md R95, 42_decode.md R104): an open stream after any of its commands, in terms of the items put in so
far and the bursts the sink has accepted; how it opens, goes on, ends and faults. -/
namespace Sys2Proof.Proofs.Sessions

open Sys2Proof Sys2Proof.Machine Sys2Proof.Proofs.ChunkRule Sys2Proof.Proofs.EncodeCommands
  Sys2Proof.Proofs.WordsAndCommands Sys2Proof.Proofs.Effects Sys2Proof.Proofs.Steps Sys2Proof.Proofs.Invariants
  Sys2Proof.Proofs.EncodedText Sys2Proof.Proofs.DecodedText Sys2Proof.Proofs.OpenGroup Sys2Proof.Proofs.StreamItems

variable {s t u : State} {c : Config} {d : Dir} {i : Instr} {pre before after : List Instr}
  {bursts bursts' : List (List Byte)} {out added : List Byte} {x : Byte} {e : Engine} {force : Bool} {rest : Engine → Engine}

/-! ### Scripts -/

theorem execAll_append (h : execAll before s = .next t) (after : List Instr) :
    execAll (before ++ after) s = execAll after t := by
  induction before generalizing s with
  | nil =>
    obtain rfl := Host.Outcome.next.inj h
    rfl
  | cons i before ih =>
    rw [execAll] at h
    rw [List.cons_append, execAll]
    cases hexec : exec i s with
    | next v =>
      rw [hexec] at h
      exact ih h
    | fault f => simp [hexec] at h
    | refused r => simp [hexec] at h

theorem execAll_append_singleton (h : execAll before s = .next t) (hexec : exec i t = .next u) :
    execAll (before ++ [i]) s = .next u := by
  rw [execAll_append h, execAll, hexec]
  rfl

theorem isBody_cases (h : isBody i = true) : (∃ x, i = .put x) ∨ isLookup i = true := by
  cases i <;> simp_all [isBody, isLookup]

theorem wellFormed_of_isBody (h : isBody i = true) : WellFormed i := by
  cases i with
  | sym arg => exact h
  | put | idx | enc | dec | end_ | abt | clr => rfl

/-- The steps of a session are its commands in order. -/
theorem runSteps_session {body : List Instr} (hi : WellFormed i) (hbody : ∀ j ∈ body, isBody j = true)
    (hin : s.input = commands (i :: (body ++ [.end_]))) :
    runSteps (body.length + 2) s = execAll (i :: (body ++ [.end_])) { s with input := [] } := by
  have hwf : ∀ j ∈ i :: (body ++ [.end_]), WellFormed j := by
    intro j hj
    simp only [List.mem_cons, List.mem_append, List.not_mem_nil, or_false] at hj
    obtain rfl | hj | rfl := hj
    · exact hi
    · exact wellFormed_of_isBody (hbody j hj)
    · rfl
  have hrun := runSteps_commands hwf s
  rw [← hin] at hrun
  simpa using hrun

@[simp] theorem items_append (a b : List Instr) : items (a ++ b) = items a ++ items b := List.filterMap_append

@[simp] theorem items_put (x : Byte) : items [.put x] = [x] := rfl

theorem items_of_isLookup (h : isLookup i = true) : items [i] = [] := by
  cases i <;> simp_all [isLookup, items]

/-! ### What the sink has accepted -/

/-- Of what a session from `s` has put out, the sink has accepted `bursts` and OBUF holds the rest. -/
structure Emitted (s : State) (out : List Byte) (bursts : List (List Byte)) (t : State) : Prop where
  out : bursts.flatten ++ t.eng.obuf = out
  sink : t.sink = s.sink ++ bursts
  outcnt : t.eng.outcnt = BitVec.ofNat 64 bursts.flatten.length
  replies : t.sinkReplies = s.sinkReplies.drop bursts.length
  oks : ∀ r ∈ s.sinkReplies.take bursts.length, r = .ok

theorem Emitted.sinkReply {r : SinkReply} (h : Emitted s out bursts t) (hr : s.sinkReplies[bursts.length]? = some r) :
    t.sinkReply = r := by
  obtain ⟨hlt, rfl⟩ := List.getElem?_eq_some_iff.mp hr
  rw [State.sinkReply, h.replies, List.drop_eq_getElem_cons hlt]

theorem Emitted.sinkReply_ok (h : Emitted s out bursts t) (hok : ∀ r ∈ s.sinkReplies, r = .ok)
    (hlt : bursts.length < s.sinkReplies.length) : t.sinkReply = .ok :=
  (h.sinkReply (List.getElem?_eq_getElem hlt)).trans (hok _ (List.getElem_mem hlt))

/-- Items appended to OBUF without a burst. -/
theorem Emitted.append (h : Emitted s out bursts t) (hobuf : u.eng.obuf = t.eng.obuf ++ added)
    (hsink : u.sink = t.sink) (houtcnt : u.eng.outcnt = t.eng.outcnt) (hreplies : u.sinkReplies = t.sinkReplies) :
    Emitted s (out ++ added) bursts u :=
  ⟨by rw [hobuf, ← h.out, List.append_assoc], hsink.trans h.sink, houtcnt.trans h.outcnt, hreplies.trans h.replies, h.oks⟩

/-- Items appended to OBUF and handed over with it in a burst. -/
theorem Emitted.burst (h : Emitted s out bursts t) (hf : ReachesFlush t i force e rest)
    (hobuf : e.obuf = t.eng.obuf ++ added) (hr : t.sinkReply = .ok) :
    Emitted s (out ++ added) (bursts ++ [e.obuf]) (completed (flushed t e) (rest e.drained)) := by
  obtain ⟨-, -, -, -, hoc, -⟩ := hf.keeps
  obtain ⟨-, -, hrestObuf, hrestOutcnt, -⟩ := hf.rest_keeps e.drained
  refine ⟨?_, ?_, ?_, ?_, ?_⟩
  · rw [completed_eng, hrestObuf, drained_obuf, List.append_nil, List.flatten_append, ← h.out, List.append_assoc, ← hobuf]
    simp
  · simp [h.sink]
  · rw [completed_eng, hrestOutcnt, drained_outcnt, hoc, h.outcnt]
    simp [BitVec.ofNat_add]
  · simp [h.replies, List.tail_drop]
  · rw [List.length_append, List.length_singleton, List.take_add_one]
    simp only [List.mem_append, Option.mem_toList]
    rintro r (hmem | hlast)
    · exact h.oks r hmem
    · exact (h.sinkReply hlast).symm.trans hr

/-! ### An open stream -/

/-- `t` is the state of a session from `s` with the stream open, after the commands `pre`, of which the sink has accepted
`bursts`. -/
structure Underway (s : State) (d : Dir) (pre : List Instr) (bursts : List (List Byte)) (t : State) : Prop where
  inv : t.Inv
  cfg : t.cfg = s.cfg
  run : t.eng.state = .run
  dir : t.eng.dir = d
  group : GroupState s.cfg d (items pre) t.eng
  incnt : t.eng.incnt = BitVec.ofNat 64 (items pre).length
  responses : t.responses = s.responses ++ pre.map (cleanResponse s.cfg)
  emitted : Emitted s (outOf s.cfg d (items pre)) bursts t
  full : ∀ y ∈ bursts, y.length = ocap s.cfg d
  asked : bursts.length ≤ (items pre).length

/-- The opening command, from IDLE. -/
theorem underway_opened (hinv : s.Inv) (hs : s.eng.state = .idle) (hi : i = .enc ∧ d = .encode ∨ i = .dec ∧ d = .decode) :
    ∃ t, exec i s = .next t ∧ Underway s d [i] [] t := by
  have hexec := exec_of_immediate (.opened hs hi)
  have hreset := hinv.eng.idle hs
  have hitems : items [i] = [] := by obtain ⟨rfl, -⟩ | ⟨rfl, -⟩ := hi <;> rfl
  have hrsp : cleanResponse s.cfg i = 0x000#12 := by obtain ⟨rfl, -⟩ | ⟨rfl, -⟩ := hi <;> rfl
  refine ⟨_, hexec, inv_of_exec hinv hexec, rfl, rfl, rfl, ?_, ?_, by simp [hrsp], ⟨?_, ?_, ?_, rfl, by simp⟩, by simp,
    by simp⟩
  · rw [hitems, completed_eng, hreset]
    exact groupState_nil _ _ rfl rfl rfl rfl
  · rw [hitems, completed_eng, hreset]
    rfl
  · rw [hitems, completed_eng, hreset]
    cases d <;> rfl
  · simp
  · rw [completed_eng, hreset]
    rfl

/-- A lookup changes nothing of it. -/
theorem Underway.lookedUp (h : Underway s d pre bursts t) (hi : isLookup i = true) :
    ∃ u, exec i t = .next u ∧ Underway s d (pre ++ [i]) bursts u := by
  have hexec := exec_of_isLookup hi t
  have hitems : items (pre ++ [i]) = items pre := by rw [items_append, items_of_isLookup hi, List.append_nil]
  refine ⟨_, hexec, inv_of_exec h.inv hexec, h.cfg, h.run, h.dir, hitems ▸ h.group, hitems ▸ h.incnt, ?_, hitems ▸ ?_,
    h.full, hitems ▸ h.asked⟩
  · simp [h.responses, h.cfg]
  · obtain ⟨hout, hsink, houtcnt, hreplies, hoks⟩ := h.emitted
    exact ⟨hout, hsink, houtcnt, hreplies, hoks⟩

/-- An item more accepted, with at most one more burst. -/
theorem Underway.next (h : Underway s d pre bursts t) (hexec : exec (.put x) t = .next u) (hrun : u.eng.state = .run)
    (hdir : u.eng.dir = t.eng.dir) (hgroup : GroupState s.cfg d (items pre ++ [x]) u.eng)
    (hin : u.eng.incnt = t.eng.incnt + 1#64) (hrsp : u.responses = t.responses ++ [0x000#12])
    (hemitted : Emitted s (outOf s.cfg d (items pre ++ [x])) bursts' u) (hfull : ∀ y ∈ bursts', y.length = ocap s.cfg d)
    (hasked : bursts'.length ≤ bursts.length + 1) : Underway s d (pre ++ [.put x]) bursts' u := by
  have hitems : items (pre ++ [.put x]) = items pre ++ [x] := by simp
  refine ⟨inv_of_exec h.inv hexec, (completes_of_exec hexec).cfg.trans h.cfg, hrun, hdir.trans h.dir, hitems ▸ hgroup, ?_,
    ?_, hitems ▸ hemitted, hfull, ?_⟩
  · rw [hin, h.incnt, hitems]
    simp [BitVec.ofNat_add]
  · simp [hrsp, h.responses, cleanResponse]
  · rw [hitems, List.length_append]
    exact hasked.trans (Nat.succ_le_succ h.asked)

/-- The command reaches the chunk rule with a burst due that the sink does not accept. -/
def BurstNotAccepted (i : Instr) (t : State) : Prop :=
  ∃ force e rest, ReachesFlush t i force e rest ∧ flushDue force (t.setEng e) = true ∧ t.sinkReply ≠ .ok

/-- How a command ends from the chunk rule: without a burst, or as the sink answers it (20_memory.md R54). -/
theorem endsWithFlush_exec (hf : ReachesFlush t i force e rest) :
    EndsWithFlush (exec i t) t (flushDue force (t.setEng e) = true) e rest :=
  exec_of_reachesFlush hf ▸ endsWithFlush_finish (fun _ => rfl) (hf.faulted .ioError) Iff.rfl

theorem exec_of_not_due (hf : ReachesFlush t i force e rest) (hdue : flushDue force (t.setEng e) = false) :
    exec i t = .next (completed t (rest e)) :=
  (endsWithFlush_exec hf).1 (Bool.eq_false_iff.mp hdue)

theorem exec_of_burst (hf : ReachesFlush t i force e rest) (hdue : flushDue force (t.setEng e) = true)
    (hr : t.sinkReply = .ok) : exec i t = .next (completed (flushed t e) (rest e.drained)) :=
  (endsWithFlush_exec hf).2.1 hdue hr

theorem exec_of_fail (hf : ReachesFlush t i force e rest) (hdue : flushDue force (t.setEng e) = true)
    (hr : t.sinkReply = .fail) : exec i t = .next (raise .ioError t.sinkReplied) :=
  (endsWithFlush_exec hf).2.2 hdue hr

/-- A burst of PUT is a full chunk. -/
theorem obuf_length_of_due (h : t.Inv) (hf : ReachesFlush t i false e rest) (hdue : flushDue false (t.setEng e) = true) :
    e.obuf.length = ocap t.cfg t.eng.dir := by
  have hle := obuf_le_ocap h.eng hf
  obtain ⟨-, hge⟩ := (flushDue_iff _ _).mp hdue
  simp only [setEng_eng, setEng_cfg, Bool.false_eq_true, false_or] at hge
  rw [hf.keeps.2.1] at hle hge
  exact Nat.le_antisymm hle hge

/-- PUT of an admissible item, unless it completes a chunk that the sink does not accept. -/
theorem Underway.put (h : Underway s d pre bursts t) (hx : Admits s.cfg d (items pre ++ [x])) :
    (∃ u bursts', exec (.put x) t = .next u ∧ Underway s d (pre ++ [.put x]) bursts' u) ∨ BurstNotAccepted (.put x) t := by
  obtain ⟨e, htakes, hgroup, hout⟩ | ⟨e, added, hf, hobuf, hgroup, hout⟩ :=
    advances (h.cfg ▸ h.inv.cfg) h.run h.dir (h.cfg ▸ h.group) (h.cfg ▸ hx)
  · obtain ⟨hst, hdir, -, hin, hoc, -, hob, -⟩ := htakes.keeps
    rw [h.cfg] at hgroup hout
    have hemitted := h.emitted.append (u := completed t (countItem e)) (added := []) (by simpa [countItem] using hob) rfl hoc
      rfl
    rw [List.append_nil, ← hout] at hemitted
    exact .inl ⟨_, bursts, exec_of_takes h.run htakes, h.next (exec_of_takes h.run htakes) (hst.trans h.run) hdir
      (hgroup.congr rfl rfl rfl rfl) (congrArg (· + 1#64) hin) rfl hemitted h.full (Nat.le_succ _)⟩
  · obtain ⟨hst, hdir, -, hin, hoc, -⟩ := hf.keeps
    rw [h.cfg] at hgroup hout
    cases hdue : flushDue false (t.setEng e) with
    | false =>
      have hemitted := h.emitted.append (u := completed t (countItem e)) hobuf rfl hoc rfl
      rw [← hout] at hemitted
      exact .inl ⟨_, bursts, exec_of_not_due hf hdue, h.next (exec_of_not_due hf hdue) (hst.trans h.run) hdir
        (hgroup.congr rfl rfl rfl rfl) (congrArg (· + 1#64) hin) rfl hemitted h.full (Nat.le_succ _)⟩
    | true =>
      by_cases hr : t.sinkReply = .ok
      · have hemitted := h.emitted.burst hf hobuf hr
        rw [← hout] at hemitted
        refine .inl ⟨_, bursts ++ [e.obuf], exec_of_burst hf hdue hr, h.next (exec_of_burst hf hdue hr) (hst.trans h.run) hdir
          (hgroup.congr rfl rfl rfl rfl) (congrArg (· + 1#64) hin) rfl hemitted (fun y hy => ?_) (by simp)⟩
        obtain hy | rfl := List.mem_append.mp hy |>.imp_right List.mem_singleton.mp
        · exact h.full y hy
        · rw [obuf_length_of_due h.inv hf hdue, h.cfg, h.dir]
      · exact .inr ⟨_, _, _, hf, hdue, hr⟩

/-- The body of a session: all of it runs, or it runs up to a PUT whose burst the sink does not accept. -/
theorem Underway.body {body : List Instr} (h : Underway s d pre bursts t) (hbody : ∀ i ∈ body, isBody i = true)
    (hitems : Admits s.cfg d (items (pre ++ body))) :
    (∃ u bursts', execAll body t = .next u ∧ Underway s d (pre ++ body) bursts' u) ∨
    ∃ before x after u bursts', body = before ++ .put x :: after ∧ execAll before t = .next u ∧
      Underway s d (pre ++ before) bursts' u ∧ BurstNotAccepted (.put x) u := by
  induction body generalizing pre bursts t with
  | nil => exact .inl ⟨t, bursts, rfl, by rwa [List.append_nil]⟩
  | cons i body ih =>
    have hcons : pre ++ i :: body = pre ++ [i] ++ body := by simp
    have hnext : (∃ u bursts', exec i t = .next u ∧ Underway s d (pre ++ [i]) bursts' u) ∨
        ∃ x, i = .put x ∧ BurstNotAccepted (.put x) t := by
      obtain ⟨x, rfl⟩ | hlookup := isBody_cases (hbody i List.mem_cons_self)
      · rw [hcons, items_append, items_append] at hitems
        exact (h.put hitems.of_append).imp_right fun hnot => ⟨x, rfl, hnot⟩
      · obtain ⟨u, hexec, hu⟩ := h.lookedUp hlookup
        exact .inl ⟨u, bursts, hexec, hu⟩
    obtain ⟨v, bursts', hexec, hv⟩ | ⟨x, rfl, hnot⟩ := hnext
    · have hrun (l : List Instr) : execAll (i :: l) t = execAll l v := by rw [execAll, hexec]
      obtain ⟨u, bursts', hu, hunder⟩ | ⟨before, x, after, u, bursts', rfl, hu, hunder, hnot⟩ :=
        ih hv (fun j hj => hbody j (List.mem_cons_of_mem i hj)) (hcons ▸ hitems)
      · exact .inl ⟨u, bursts', (hrun _).trans hu, hcons ▸ hunder⟩
      · refine .inr ⟨i :: before, x, after, u, bursts', rfl, (hrun _).trans hu, ?_, hnot⟩
        simpa using hunder
    · exact .inr ⟨[], x, body, t, bursts, rfl, rfl, by rwa [List.append_nil], hnot⟩

/-- With a sink that accepts every burst the whole body runs. -/
theorem Underway.body_of_ok {body : List Instr} (h : Underway s d pre bursts t) (hbody : ∀ i ∈ body, isBody i = true)
    (hitems : Admits s.cfg d (items (pre ++ body))) (hok : ∀ r ∈ s.sinkReplies, r = .ok)
    (hlen : (items (pre ++ body)).length < s.sinkReplies.length) :
    ∃ u bursts', execAll body t = .next u ∧ Underway s d (pre ++ body) bursts' u := by
  obtain hall | ⟨before, x, after, u, bursts', rfl, -, hu, -, -, -, -, -, hr⟩ := h.body hbody hitems
  · exact hall
  · refine absurd (hu.emitted.sinkReply_ok hok ?_) hr
    have hasked := hu.asked
    simp only [items_append, List.length_append] at hasked hlen
    omega

end Sys2Proof.Proofs.Sessions
end

section
/-! How a session ends: END flushes what is left, or a command of it enters FAULT and what follows is refused; and whole
sessions from IDLE. -/
namespace Sys2Proof.Proofs.Sessions

open Sys2Proof Sys2Proof.Machine Sys2Proof.Proofs.FaultEntry Sys2Proof.Proofs.ChunkRule Sys2Proof.Proofs.EncodeCommands
  Sys2Proof.Proofs.Effects Sys2Proof.Proofs.Invariants Sys2Proof.Proofs.EncodedText Sys2Proof.Proofs.DecodedText
  Sys2Proof.Proofs.OpenGroup Sys2Proof.Proofs.StreamItems

variable {s t u : State} {c : Config} {d : Dir} {i k : Instr} {pre before after body : List Instr}
  {bursts : List (List Byte)} {e g : Engine} {force : Bool} {rest : Engine → Engine} {kind : ErrKind} {n : Nat}

/-! ### END -/

/-- All that a stream of the items `b` puts out, END included. -/
def wholeOut (c : Config) : Dir → List Byte → List Byte
  | .encode, b => enc c b
  | .decode, text => decValue c text

/-- END reaches the chunk rule with what the final partial group adds, unless a decode stream ends inside a group. -/
theorem Underway.end_reaches (h : Underway s d pre bursts t) (hlen : d = .decode → (items pre).length % 4 = 0) :
    ∃ e added rest, ReachesFlush t .end_ true e rest ∧ e.obuf = t.eng.obuf ++ added ∧
      outOf s.cfg d (items pre) ++ added = wholeOut s.cfg d (items pre) := by
  have hgroup := h.group
  cases d with
  | encode =>
    obtain ⟨hcnt, whole, rest, hb, hwhole, hrest, hacc⟩ := hgroup
    refine ⟨_, enc s.cfg rest, _, .endEncode h.run h.dir, ?_, ?_⟩
    · rw [encTailed, hacc, h.cfg, encTail_encAcc (hrest.trans hcnt.symm) (by omega)]
    · rw [hb, outOf_encode_append hwhole (by omega), wholeOut, enc_append hwhole]
  | decode =>
    have hcnt : t.eng.cnt = 0#2 := BitVec.eq_of_toNat_eq (hgroup.cnt.trans (hlen rfl))
    exact ⟨_, [], _, .endDecode h.run h.dir hcnt, (List.append_nil _).symm, List.append_nil _⟩

theorem rest_of_end (hf : ReachesFlush t .end_ force e rest) (g : Engine) :
    (rest g).state = .done ∧ (rest g).incnt = g.incnt := by
  cases hf <;> exact ⟨rfl, rfl⟩

/-- `u` is the end of a session from `s` whose commands before END are `pre`: everything is flushed. -/
structure Ended (s : State) (d : Dir) (pre : List Instr) (bursts : List (List Byte)) (u : State) : Prop where
  done : u.eng.state = .done
  dir : u.eng.dir = d
  err : u.eng.err = none
  incnt : u.eng.incnt = BitVec.ofNat 64 (items pre).length
  outcnt : u.eng.outcnt = BitVec.ofNat 64 (wholeOut s.cfg d (items pre)).length
  responses : u.responses = s.responses ++ (pre ++ [Instr.end_]).map (cleanResponse s.cfg)
  sink : u.sink = s.sink ++ bursts
  cut : CutInto (ocap s.cfg d) (wholeOut s.cfg d (items pre)) bursts
  oks : ∀ r ∈ s.sinkReplies.take bursts.length, r = .ok

/-- The registers END leaves, from those the chunk rule leaves with OBUF empty. -/
theorem Underway.ended {bursts' : List (List Byte)} (h : Underway s d pre bursts t)
    (hf : ReachesFlush t .end_ force e rest) (hdir : g.dir = e.dir) (herr : g.err = e.err) (hin : g.incnt = e.incnt)
    (hobuf : g.obuf = []) (heng : u.eng = rest g) (hrsp : u.responses = t.responses ++ [0x000#12])
    (hemitted : Emitted s (wholeOut s.cfg d (items pre)) bursts' u)
    (hsize : ∀ x ∈ bursts', 0 < x.length ∧ x.length ≤ ocap s.cfg d)
    (hfull : ∀ x ∈ bursts'.dropLast, x.length = ocap s.cfg d) : Ended s d pre bursts' u := by
  obtain ⟨-, hedir, heerr, hein, -⟩ := hf.keeps
  obtain ⟨hrdir, hrerr, hrobuf, -⟩ := hf.rest_keeps g
  obtain ⟨hdone, hrin⟩ := rest_of_end hf g
  obtain ⟨hout, hsink, houtcnt, -, hoks⟩ := hemitted
  rw [heng, hrobuf, hobuf, List.append_nil] at hout
  refine ⟨?_, ?_, ?_, ?_, hout ▸ houtcnt, ?_, hsink, ⟨hout, hsize, hfull⟩, hoks⟩
  · rw [heng, hdone]
  · rw [heng, hrdir, hdir, hedir, h.dir]
  · rw [heng, hrerr, herr, heerr, err_of_run h.inv.eng h.run]
  · rw [heng, hrin, hin, hein, h.incnt]
  · simp [hrsp, h.responses, cleanResponse]

/-- END closes the stream, unless the sink does not accept its burst. -/
theorem Underway.end_ (h : Underway s d pre bursts t) (hlen : d = .decode → (items pre).length % 4 = 0) :
    (∃ u bursts', exec .end_ t = .next u ∧ Ended s d pre bursts' u) ∨ BurstNotAccepted .end_ t := by
  obtain ⟨e, added, rest, hf, hobuf, hout⟩ := h.end_reaches hlen
  have hpos : 0 < ocap s.cfg d := h.cfg ▸ ocap_pos h.inv.cfg.2.2 d
  have hsize : ∀ x ∈ bursts, 0 < x.length ∧ x.length ≤ ocap s.cfg d := fun x hx => by
    rw [h.full x hx]
    exact ⟨hpos, Nat.le_refl _⟩
  cases hdue : flushDue true (t.setEng e) with
  | false =>
    obtain ⟨-, -, -, -, hoc, -⟩ := hf.keeps
    obtain ⟨-, -, hrobuf, hroc, -⟩ := hf.rest_keeps e
    have hemitted := h.emitted.append (u := completed t (rest e)) (hrobuf.trans hobuf) rfl (hroc.trans hoc) rfl
    exact .inl ⟨_, bursts, exec_of_not_due hf hdue, h.ended hf rfl rfl rfl (obuf_eq_nil_of_not_due hdue) rfl rfl
      (hout ▸ hemitted) hsize fun x hx => h.full x (List.mem_of_mem_dropLast hx)⟩
  | true =>
    by_cases hr : t.sinkReply = .ok
    · have hle := obuf_le_ocap h.inv.eng hf
      rw [hf.keeps.2.1, h.dir, h.cfg] at hle
      refine .inl ⟨_, bursts ++ [e.obuf], exec_of_burst hf hdue hr, h.ended (g := e.drained) hf rfl rfl rfl rfl rfl rfl
        (hout ▸ h.emitted.burst hf hobuf hr) (fun x hx => ?_) ?_⟩
      · obtain hx | rfl := List.mem_append.mp hx |>.imp_right List.mem_singleton.mp
        · exact hsize x hx
        · exact ⟨List.length_pos_iff.mpr ((flushDue_true_iff _).mp hdue), hle⟩
      · rw [List.dropLast_concat]
        exact h.full
    · exact .inr ⟨_, _, _, hf, hdue, hr⟩

/-! ### After a fault -/

theorem execAll_cons (hexec : exec i s = .next t) (l : List Instr) : execAll (i :: l) s = execAll l t := by
  rw [execAll, hexec]

theorem exec_of_fault (hs : t.eng.state = .fault) (hi : isBody i = true ∨ i = .end_) :
    exec i t = .next (t.answer (faultedResponse t.cfg i)) := by
  obtain hbody | rfl := hi
  · obtain ⟨x, rfl⟩ | hlookup := isBody_cases hbody
    · exact exec_of_not_legal (by rw [hs]; rfl)
    · rw [exec_of_isLookup hlookup]
      cases i with
      | sym | idx => rfl
      | enc | dec | put | end_ | abt | clr => contradiction
  · exact exec_of_not_legal (by rw [hs]; rfl)

theorem execAll_of_fault (hs : t.eng.state = .fault) (hafter : ∀ i ∈ after, isBody i = true ∨ i = .end_) :
    execAll after t = .next { t with responses := t.responses ++ after.map (faultedResponse t.cfg) } := by
  induction after generalizing t with
  | nil => simp [execAll]
  | cons i after ih =>
    rw [execAll_cons (exec_of_fault hs (hafter i List.mem_cons_self)),
      ih (t := t.answer _) hs fun j hj => hafter j (List.mem_cons_of_mem i hj)]
    simp [State.answer]

/-- A session with a command that enters FAULT. -/
theorem Underway.faults (h : Underway s d before bursts t) (hrun : execAll before s = .next t)
    (hexec : exec i t = .next u) (hfault : IsFaultEntry kind t u)
    (hafter : ∀ j ∈ after, isBody j = true ∨ j = .end_) :
    ∃ v, execAll (before ++ i :: after) s = .next v ∧ v.eng = t.eng.faulted kind ∧ v.sink = s.sink ++ bursts ∧
      v.responses = s.responses ++ before.map (cleanResponse s.cfg) ++
        (kind.code ++ 0#8) :: after.map (faultedResponse s.cfg) := by
  obtain ⟨heng, hrsp, hsink, hcfg, -⟩ := hfault
  have hstate : u.eng.state = .fault := heng ▸ rfl
  have hall := (execAll_append hrun (i :: after)).trans
    ((execAll_cons hexec after).trans (execAll_of_fault hstate hafter))
  exact ⟨_, hall, heng, hsink.trans h.emitted.sink, by simp [hrsp, h.responses, hcfg, h.cfg]⟩

/-! ### Whole sessions -/

theorem items_opening (hi : i = .enc ∧ d = .encode ∨ i = .dec ∧ d = .decode) (l : List Instr) :
    items (i :: l) = items l := by
  obtain ⟨rfl, -⟩ | ⟨rfl, -⟩ := hi <;> rfl

/-- The commands of a session, up to END or a command whose burst the sink does not accept. -/
theorem session (hinv : s.Inv) (hs : s.eng.state = .idle) (hi : i = .enc ∧ d = .encode ∨ i = .dec ∧ d = .decode)
    (hbody : ∀ j ∈ body, isBody j = true) (hadmits : Admits s.cfg d (items body))
    (hlen : d = .decode → (items body).length % 4 = 0) :
    (∃ u bursts, execAll (i :: (body ++ [.end_])) s = .next u ∧ Ended s d (i :: body) bursts u) ∨
    ∃ before k after u bursts, body ++ [.end_] = before ++ k :: after ∧ execAll (i :: before) s = .next u ∧
      Underway s d (i :: before) bursts u ∧ BurstNotAccepted k u := by
  obtain ⟨t, hopen, ht⟩ := underway_opened hinv hs hi
  rw [← items_opening hi] at hadmits hlen
  obtain ⟨u, bursts, hrun, hu⟩ | ⟨before, x, after, u, bursts, rfl, hrun, hu, hnot⟩ := ht.body hbody hadmits
  · obtain ⟨v, bursts', hend, hv⟩ | hnot := hu.end_ hlen
    · exact .inl ⟨v, bursts', (execAll_cons hopen _).trans (execAll_append_singleton hrun hend), hv⟩
    · exact .inr ⟨body, .end_, [], u, bursts, rfl, (execAll_cons hopen _).trans hrun, hu, hnot⟩
  · exact .inr ⟨before, .put x, after ++ [.end_], u, bursts, by simp, (execAll_cons hopen _).trans hrun, hu, hnot⟩

theorem length_items_le (l : List Instr) : (items l).length ≤ l.length := List.length_filterMap_le _ _

/-- With a sink that accepts every burst the session ends. -/
theorem clean_session (hinv : s.Inv) (hs : s.eng.state = .idle)
    (hi : i = .enc ∧ d = .encode ∨ i = .dec ∧ d = .decode) (hbody : ∀ j ∈ body, isBody j = true)
    (hadmits : Admits s.cfg d (items body)) (hlen : d = .decode → (items body).length % 4 = 0)
    (hok : ∀ r ∈ s.sinkReplies, r = .ok) (hreplies : body.length + 2 ≤ s.sinkReplies.length) :
    ∃ u bursts, execAll (i :: (body ++ [.end_])) s = .next u ∧ Ended s d (i :: body) bursts u := by
  obtain hend | ⟨before, k, after, u, bursts, hsplit, -, hu, -, -, -, -, -, hr⟩ := session hinv hs hi hbody hadmits hlen
  · exact hend
  · refine absurd (hu.emitted.sinkReply_ok hok ?_) hr
    have hasked := hu.asked.trans (length_items_le _)
    have hshort := congrArg List.length hsplit
    simp only [List.length_append, List.length_cons, List.length_nil] at hshort hasked
    omega

/-! ### A sink that fails -/

theorem length_flatten_le (h : ∀ x ∈ bursts, x.length ≤ n) : bursts.flatten.length ≤ bursts.length * n := by
  rw [List.length_flatten]
  simpa using List.sum_le_card_nsmul (bursts.map List.length) n (by simpa using h)

theorem length_flatten_of_full (h : ∀ x ∈ bursts, x.length = n) : bursts.flatten.length = bursts.length * n := by
  rw [List.length_flatten]
  simpa using List.sum_eq_card_nsmul (bursts.map List.length) n (by simpa using h)

variable {out : List Byte} {j : Nat} {later : List SinkReply}

/-- The bursts accepted come before the first `Fail`. -/
theorem length_le_of_oks (hreplies : s.sinkReplies = List.replicate j .ok ++ .fail :: later)
    (hoks : ∀ r ∈ s.sinkReplies.take n, r = .ok) : n ≤ j := by
  by_contra hlt
  have hfail : SinkReply.fail ∈ s.sinkReplies.take n := by
    refine List.mem_take_iff_getElem.mpr ⟨j, ?_, ?_⟩
    · simp [hreplies]
      omega
    · simp [hreplies]
  exact absurd (hoks _ hfail) (by decide)

/-- A reply other than `Ok` is the first `Fail`. -/
theorem Emitted.fail_of_not_ok (h : Emitted s out bursts t)
    (hreplies : s.sinkReplies = List.replicate j .ok ++ .fail :: later) (hr : t.sinkReply ≠ .ok) :
    bursts.length = j ∧ t.sinkReply = .fail := by
  have hle := length_le_of_oks hreplies h.oks
  obtain hlt | rfl := Nat.lt_or_eq_of_le hle
  · refine absurd (h.sinkReply ?_) hr
    rw [hreplies, List.getElem?_append_left (by simpa using hlt), List.getElem?_replicate_of_lt hlt]
  · refine ⟨rfl, h.sinkReply ?_⟩
    simp [hreplies]

end Sys2Proof.Proofs.Sessions
end

section
/-! The first position of a text that `dec` rejects, as a decode session reaches it (42_decode.md R104). -/
namespace Sys2Proof.Proofs.Sessions

open Sys2Proof Sys2Proof.Machine Sys2Proof.Proofs.FaultEntry Sys2Proof.Proofs.Effects Sys2Proof.Proofs.Invariants
  Sys2Proof.Proofs.DecodedText Sys2Proof.Proofs.StreamItems

variable {s t u : State} {c : Config} {i : Instr} {pre before after body : List Instr}
  {bursts : List (List Byte)} {kind : ErrKind} {n m : Nat} {text : List Byte} {ch : Byte}

/-! ### The unpadded groups of a clean text -/

/-- The number of whole groups of a text but for a padded last one. -/
def unpaddedGroups (text : List Byte) : Nat :=
  text.length / 4 - if 4 ≤ text.length ∧ padAt text (text.length - text.length % 4 - 1) = true then 1 else 0

theorem padSym_notMem_take (hpad : padSym ∉ c.alphabet.toList) (h : Clean c text) (hm : m ≤ 4 * unpaddedGroups text) :
    padSym ∉ text.take m := by
  intro hmem
  obtain ⟨q, hlt, hq⟩ := List.mem_take_iff_getElem.mp hmem
  have hqpad : padAt text q = true := padAt_iff.mpr (List.getElem?_eq_some_iff.mpr ⟨by omega, hq⟩)
  obtain ⟨htwo, hnext, hlast⟩ := padding_of_clean hpad h hqpad
  unfold unpaddedGroups at hm
  by_cases hpadded : 4 ≤ text.length ∧ padAt text (text.length - text.length % 4 - 1) = true
  · rw [if_pos hpadded] at hm
    omega
  · rw [if_neg hpadded] at hm
    refine hpadded ⟨by omega, ?_⟩
    obtain h2 | h3 : q % 4 = 2 ∨ q % 4 = 3 := by omega
    · rw [show text.length - text.length % 4 - 1 = q + 1 by omega]
      exact hnext h2 (by omega)
    · rwa [show text.length - text.length % 4 - 1 = q by omega]

/-- A group that ends in PAD has at most two bytes. -/
theorem length_decChars_padSym_le (c : Config) (c0 c1 c2 : Byte) : (decChars c c0 c1 c2 padSym).length ≤ 2 := by
  by_cases h2 : c2 = padSym
  · rw [h2, decChars_two_padding]
    exact Nat.le_succ 1
  · rw [decChars_one_padding c0 c1 h2]
    rfl

/-- What follows the unpadded groups of a clean text has fewer bytes than a group. -/
theorem length_decValue_drop_le (hpad : padSym ∉ c.alphabet.toList) (h : Clean c text) :
    (decValue c (text.drop (4 * unpaddedGroups text))).length ≤ 2 := by
  unfold unpaddedGroups
  by_cases hpadded : 4 ≤ text.length ∧ padAt text (text.length - text.length % 4 - 1) = true
  · obtain ⟨hlen, hlast⟩ := hpadded
    obtain ⟨-, -, hend⟩ := padding_of_clean hpad h hlast
    rw [if_pos ⟨hlen, hlast⟩]
    have hfour : (text.drop (4 * (text.length / 4 - 1))).length = 4 := by
      rw [List.length_drop]
      omega
    have hthree : (text.drop (4 * (text.length / 4 - 1)))[3]? = some padSym := by
      rw [List.getElem?_drop, show 4 * (text.length / 4 - 1) + 3 = text.length - text.length % 4 - 1 by omega]
      exact padAt_iff.mp hlast
    generalize text.drop (4 * (text.length / 4 - 1)) = group at hfour hthree
    match group, hfour with
    | [c0, c1, c2, c3], _ =>
      obtain rfl : c3 = padSym := by simpa using hthree
      simpa [decValue] using length_decChars_padSym_le c c0 c1 c2
  · rw [if_neg hpadded, decValue_of_length_lt_four]
    · exact Nat.zero_le 2
    · rw [List.length_drop]
      omega

theorem length_decValue_of_clean (hpad : padSym ∉ c.alphabet.toList) (h : Clean c text) :
    3 * unpaddedGroups text ≤ (decValue c text).length ∧ (decValue c text).length ≤ 3 * unpaddedGroups text + 2 := by
  have hle : 4 * unpaddedGroups text ≤ text.length := by
    unfold unpaddedGroups
    omega
  have hlen : (text.take (4 * unpaddedGroups text)).length = 4 * unpaddedGroups text := List.length_take_of_le hle
  have hvalue := decValue_append (c := c) (a := text.take (4 * unpaddedGroups text)) (by omega)
    (text.drop (4 * unpaddedGroups text))
  have hgroups := decValue_length_of_unpadded (c := c) (padSym_notMem_take hpad h (Nat.le_refl _)) (by omega)
  have hrest := length_decValue_drop_le hpad h
  rw [List.take_append_drop] at hvalue
  rw [hvalue, List.length_append, hgroups, hlen]
  omega

/-- Of what a clean text puts out, the accepted bursts of `3 * m` bytes, with less than a burst held back, are the whole
chunks of its unpadded groups. -/
theorem bursts_eq_decValue_take {obuf : List Byte} (hpad : padSym ∉ c.alphabet.toList) (h : Clean c text)
    (hout : bursts.flatten ++ obuf = decValue c text) (hfull : ∀ x ∈ bursts, x.length = 3 * m)
    (hobuf : obuf.length < 3 * m) :
    bursts.flatten = decValue c (text.take (4 * (m * (unpaddedGroups text / m)))) := by
  have hlen := length_flatten_of_full hfull
  obtain ⟨hge, hle⟩ := length_decValue_of_clean hpad h
  rw [← hout, List.length_append, hlen, show bursts.length * (3 * m) = 3 * (bursts.length * m) by ring] at hge hle
  have hbursts : unpaddedGroups text / m = bursts.length :=
    Nat.div_eq_of_lt_le (by omega) (by rw [Nat.succ_mul]; omega)
  have hprefix : 4 * (m * bursts.length) ≤ 4 * unpaddedGroups text := by
    rw [Nat.mul_comm m]
    omega
  have htext : 4 * (m * bursts.length) ≤ text.length := by
    refine hprefix.trans ?_
    unfold unpaddedGroups
    omega
  have hchunks : (text.take (4 * (m * bursts.length))).length = 4 * (m * bursts.length) := List.length_take_of_le htext
  have hvalue := decValue_append (c := c) (a := text.take (4 * (m * bursts.length))) (by omega)
    (text.drop (4 * (m * bursts.length)))
  rw [List.take_append_drop, ← hout] at hvalue
  rw [hbursts]
  refine List.append_inj_left hvalue ?_
  rw [hlen, decValue_length_of_unpadded (padSym_notMem_take hpad h hprefix) (by omega), hchunks,
    Nat.mul_div_cancel_left _ (by decide)]
  ring

/-- The condition on the last whole group reads nothing behind the text. -/
theorem unpaddedGroups_eq (text b : List Byte) : unpaddedGroups text = text.length / 4 -
    if 4 ≤ text.length ∧ padAt (text ++ b) (text.length - text.length % 4 - 1) = true then 1 else 0 := by
  rw [unpaddedGroups]
  congr 1
  exact if_congr (and_congr_right fun h4 => by rw [padAt_append_left (by omega)]) rfl rfl

/-- The bursts of a decode stream are the whole chunks of the unpadded groups put in, whatever follows. -/
theorem Underway.flatten_eq_decValue_take (h : Underway s .decode pre bursts t) (b : List Byte) :
    bursts.flatten = decValue s.cfg ((items pre ++ b).take
      (4 * (s.cfg.chunkGroups.toNat * (unpaddedGroups (items pre) / s.cfg.chunkGroups.toNat)))) := by
  have hgroup : DecGroup s.cfg (items pre) t.eng := h.group
  have hcfg : ValidConfig s.cfg := h.cfg ▸ h.inv.cfg
  have hobuf := h.inv.eng.obuf
  rw [h.dir, h.cfg] at hobuf
  have hle := Nat.mul_div_le (unpaddedGroups (items pre)) s.cfg.chunkGroups.toNat
  rw [List.take_append_of_le_length]
  · exact bursts_eq_decValue_take hcfg.2.1 hgroup.clean h.emitted.out h.full hobuf
  · have hgroups : unpaddedGroups (items pre) ≤ (items pre).length / 4 := Nat.sub_le _ _
    omega

/-! ### The character or the END that faults -/

/-- A body cut at its last accepted item. -/
theorem exists_put_of_items {a b : List Byte} (h : items body = a ++ ch :: b) :
    ∃ before after, body = before ++ .put ch :: after ∧ items before = a := by
  obtain ⟨l₁, l₂, rfl, hl₁, hl₂⟩ := List.filterMap_eq_append_iff.mp h
  obtain ⟨l₃, i, l₄, rfl, hnone, hi, -⟩ := List.filterMap_eq_cons_iff.mp hl₂
  obtain rfl : i = .put ch := by
    cases i with
    | put x => exact congrArg _ (Option.some.inj hi)
    | enc | dec | end_ | abt | clr | sym | idx => contradiction
  refine ⟨l₁ ++ l₃, l₄, by simp, ?_⟩
  rw [items_append, show items l₁ = a from hl₁, show items l₃ = [] from List.filterMap_eq_nil_iff.mpr hnone,
    List.append_nil]

/-- The command of a session that faults, as `dec` says of its items. -/
def FaultsAt (s : State) (body : List Instr) (kind : ErrKind) (pos : Nat) : Prop :=
  ∃ before i after u bursts, body ++ [.end_] = before ++ i :: after ∧ execAll (.dec :: before) s = .next u ∧
    Underway s .decode (.dec :: before) bursts u ∧ Raises u i kind ∧ (items before).length = pos ∧
    (i = .end_ ∧ kind = .invalidLength ∨ (∃ x, i = .put x) ∧ (kind = .invalidSymbol ∨ kind = .invalidPadding))

theorem faultsAt_of_dec {pos : Nat} (hinv : s.Inv) (hs : s.eng.state = .idle) (hbody : ∀ i ∈ body, isBody i = true)
    (hok : ∀ r ∈ s.sinkReplies, r = .ok) (hreplies : body.length + 2 ≤ s.sinkReplies.length)
    (h : dec s.cfg (items body) = .err kind pos) : FaultsAt s body kind pos := by
  obtain ⟨t, hopen, ht⟩ := underway_opened hinv hs (.inr ⟨rfl, rfl⟩)
  have hrun {l : List Instr} (hl : ∀ i ∈ l, isBody i = true) (hle : l.length ≤ body.length) (hclean : Clean s.cfg (items l)) :
      ∃ u bursts, execAll (.dec :: l) s = .next u ∧ Underway s .decode (.dec :: l) bursts u := by
    have hitems := (length_items_le l).trans hle
    obtain ⟨u, bursts, hu, hunder⟩ := ht.body_of_ok hl hclean hok (Nat.lt_of_le_of_lt hitems (by omega))
    exact ⟨u, bursts, (execAll_cons hopen l).trans hu, hunder⟩
  obtain ⟨hclean, hlen, rfl, rfl⟩ | ⟨a, ch, b, hitems, rfl, hclean, hbad⟩ := dec_eq_err h
  · obtain ⟨u, bursts, hu, hunder⟩ := hrun hbody (Nat.le_refl _) hclean
    refine ⟨body, .end_, [], u, bursts, rfl, hu, hunder, .end_ hunder.dir fun hcnt => hlen ?_, rfl, .inl ⟨rfl, rfl⟩⟩
    have hgroup : DecGroup s.cfg (items body) u.eng := hunder.group
    rw [← hgroup.cnt, hcnt]
    rfl
  · obtain ⟨before, after, rfl, rfl⟩ := exists_put_of_items hitems
    obtain ⟨u, bursts, hu, hunder⟩ := hrun (fun i hi => hbody i (List.mem_append_left _ hi)) (by simp) hclean
    have hgroup : DecGroup s.cfg (items before) u.eng := hunder.group
    have hcheck : checkChar u.cfg u.eng ch = some kind := by
      rw [hunder.cfg, checkChar_eq_badAt hinv.cfg.2.1 hgroup, hbad]
    exact ⟨before, .put ch, after ++ [.end_], u, bursts, by simp, hu, hunder, .put hunder.dir hcheck, rfl,
      .inr ⟨⟨ch, rfl⟩, (badAt_kind hbad).imp And.left And.left⟩⟩

end Sys2Proof.Proofs.Sessions
end

section
/-! Sessions as the host presents them: the steps of a session are its commands, so what holds of its commands holds of
its steps; and two engines with one alphabet encode alike. -/
namespace Sys2Proof.Proofs.Sessions

open Sys2Proof Sys2Proof.Machine Sys2Proof.Proofs.FaultEntry Sys2Proof.Proofs.ChunkSize Sys2Proof.Proofs.Effects
  Sys2Proof.Proofs.EncodedText Sys2Proof.Proofs.StreamItems

variable {s t u : State} {c c' : Config} {d : Dir} {i : Instr} {body : List Instr} {j : Nat} {later : List SinkReply}

theorem inv_withInput (h : s.Inv) : State.Inv { s with input := [] } := ⟨h.cfg, h.eng⟩

/-- A clean session, step by step. -/
theorem runSteps_clean_session (hinv : s.Inv) (hs : s.eng.state = .idle)
    (hi : i = .enc ∧ d = .encode ∨ i = .dec ∧ d = .decode) (hbody : ∀ j ∈ body, isBody j = true)
    (hin : s.input = commands (i :: (body ++ [.end_]))) (hadmits : Admits s.cfg d (items body))
    (hlen : d = .decode → (items body).length % 4 = 0) (hok : ∀ r ∈ s.sinkReplies, r = .ok)
    (hreplies : body.length + 2 ≤ s.sinkReplies.length) :
    ∃ u bursts, runSteps (body.length + 2) s = .next u ∧ Ended { s with input := [] } d (i :: body) bursts u := by
  have hwf : WellFormed i := by obtain ⟨rfl, -⟩ | ⟨rfl, -⟩ := hi <;> rfl
  rw [runSteps_session hwf hbody hin]
  exact clean_session (s := { s with input := [] }) (inv_withInput hinv) hs hi hbody hadmits hlen hok hreplies

/-- An encode session with a sink that fails: the command whose burst fails. -/
theorem failed_session (hinv : s.Inv) (hs : s.eng.state = .idle) (hbody : ∀ i ∈ body, isBody i = true)
    (hreplies : s.sinkReplies = List.replicate j .ok ++ .fail :: later)
    (hlen : j * (4 * s.cfg.chunkGroups.toNat) < (enc s.cfg (items body)).length) :
    ∃ before i after u v bursts, body ++ [.end_] = before ++ i :: after ∧ execAll (.enc :: before) s = .next u ∧
      Underway s .encode (.enc :: before) bursts u ∧ bursts.length = j ∧ exec i u = .next v ∧
      IsFaultEntry .ioError u v ∧ (i = .end_ ∨ ∃ x, i = .put x) := by
  obtain ⟨u, bursts, -, hend⟩ | ⟨before, i, after, u, bursts, hsplit, hrun, hu, force, e, rest, hf, hdue, hr⟩ :=
    session hinv hs (.inl ⟨rfl, rfl⟩) hbody trivial (by simp)
  · obtain ⟨hflat, hsize, -⟩ := hend.cut
    have hle := length_flatten_le fun x hx => (hsize x hx).2
    have hj := Nat.mul_le_mul_right (4 * s.cfg.chunkGroups.toNat) (length_le_of_oks hreplies hend.oks)
    rw [hflat] at hle
    exact absurd (hlen.trans_le hle) (Nat.not_lt.mpr hj)
  · obtain ⟨hj, hfail⟩ := hu.emitted.fail_of_not_ok hreplies hr
    exact ⟨before, i, after, u, _, bursts, hsplit, hrun, hu, hj, exec_of_fail hf hdue hfail, ⟨rfl, rfl, rfl, rfl, rfl⟩,
      hf.end_or_put⟩

/-- What follows a command of a session is its body's or its END. -/
theorem body_or_end_of_split {before after : List Instr} (hbody : ∀ i ∈ body, isBody i = true)
    (hsplit : body ++ [.end_] = before ++ i :: after) : ∀ k ∈ after, isBody k = true ∨ k = .end_ := by
  intro k hk
  have hmem : k ∈ body ++ [.end_] := hsplit ▸ List.mem_append_right before (List.mem_cons_of_mem i hk)
  exact (List.mem_append.mp hmem).imp (hbody k) List.mem_singleton.mp

theorem items_of_split {before after : List Instr} (hsplit : body ++ [.end_] = before ++ i :: after) :
    items body = items before ++ items (i :: after) := by
  simpa [show items [.end_] = [] from rfl] using congrArg items hsplit

/-! ### Two engines -/

theorem enc_congr (h : c.alphabet = c'.alphabet) (b : List Byte) : enc c b = enc c' b := by
  induction b using enc.induct with
  | case1 => rfl
  | case2 | case3 => simp only [enc, symbolOf, encLut_congr h]
  | case4 b0 b1 b2 rest ih => simp only [enc, symbolOf, encLut_congr h, ih]

@[simp] theorem items_puts (l : List Byte) : items (puts l) = l := by
  rw [items, puts, List.filterMap_map]
  exact List.filterMap_some

theorem isBody_puts (l : List Byte) : ∀ i ∈ puts l, isBody i = true := by
  intro i hi
  obtain ⟨x, -, rfl⟩ := List.mem_map.mp hi
  rfl

end Sys2Proof.Proofs.Sessions
end

section
namespace Sys2Proof.Proofs

open Sys2Proof Sys2Proof.Machine Sys2Proof.Proofs.FaultEntry Sys2Proof.Proofs.Effects Sys2Proof.Proofs.EncodedText
  Sys2Proof.Proofs.DecodedText Sys2Proof.Proofs.StreamItems Sys2Proof.Proofs.Sessions

/-- Settles O56: the open group and what is put out are, after every command, those of the items so far. -/
theorem encodeSessionPutsOutTheEncoding : Obligations.EncodeSessionPutsOutTheEncoding := by
  intro s body hinv hs hbody hin hok hreplies
  obtain ⟨u, bursts, hrun, hend⟩ :=
    runSteps_clean_session hinv hs (.inl ⟨rfl, rfl⟩) hbody hin trivial (by simp) hok hreplies
  have houtcnt : u.eng.outcnt = BitVec.ofNat 64 (enc s.cfg (items body)).length := hend.outcnt
  exact ⟨u, bursts, hrun, hend.done, hend.dir, hend.err, hend.incnt, enc_length s.cfg _ ▸ houtcnt, hend.responses,
    hend.sink, hend.cut⟩

/-- Settles O57: the burst that fails is the one after `j` full chunks, which are a beginning of the encoding. -/
theorem encodeSessionWithAFailingSink : Obligations.EncodeSessionWithAFailingSink := by
  intro s body j later hinv hs hbody hin hreplies hlen
  obtain ⟨before, i, after, u, v, bursts, hsplit, hrun, hu, hj, hexec, hfault, hi⟩ :=
    failed_session (s := { s with input := [] }) (inv_withInput hinv) hs hbody hreplies hlen
  obtain ⟨w, hall, heng, hsink, hrsp⟩ := hu.faults hrun hexec hfault (body_or_end_of_split hbody hsplit)
  have hscript : .enc :: (body ++ [.end_]) = .enc :: before ++ i :: after := congrArg (Instr.enc :: ·) hsplit
  have hprefix : bursts.flatten <+: enc s.cfg (items body) := by
    refine List.IsPrefix.trans ⟨u.eng.obuf, hu.emitted.out⟩ ?_
    rw [items_of_split hsplit]
    exact outOf_encode_prefix s.cfg _ _
  have hflat := List.prefix_iff_eq_take.mp hprefix
  rw [length_flatten_of_full hu.full, hj] at hflat
  refine ⟨w, bursts, .enc :: before, after, i, ?_, ?_, ?_, hsink, hj, hu.full, hflat, hscript, hi, hrsp⟩
  · rw [runSteps_session rfl hbody hin, hscript, hall]
  · rw [heng]
    rfl
  · rw [heng]
    rfl

/-- Settles O58: a text that `dec` accepts has no bad character and ends between two groups. -/
theorem decodeSessionOfWellFormedText : Obligations.DecodeSessionOfWellFormedText := by
  intro s body bytes hinv hs hbody hin hok hreplies hdec
  obtain ⟨hclean, hlen, rfl⟩ := dec_eq_ok_iff.mp hdec
  obtain ⟨u, bursts, hrun, hend⟩ :=
    runSteps_clean_session hinv hs (.inr ⟨rfl, rfl⟩) hbody hin hclean (fun _ => hlen) hok hreplies
  exact ⟨u, bursts, hrun, hend.done, hend.dir, hend.err, hend.incnt, hend.outcnt, hend.responses, hend.sink, hend.cut⟩

/-- Settles O59: up to the position at which `dec` rejects the text the session is a clean one, and there PUT or END
raises what `dec` says; the bursts so far are full, and OBUF holds less than another one. -/
theorem decodeSessionOfMalformedText : Obligations.DecodeSessionOfMalformedText := by
  intro s body kind pos hinv hs hbody hin hok hreplies hdec groups hgroups
  obtain ⟨before, i, after, u, bursts, hsplit, hrun, hu, hraises, rfl, hi⟩ :=
    faultsAt_of_dec (s := { s with input := [] }) (inv_withInput hinv) hs hbody hok hreplies hdec
  obtain ⟨w, hall, heng, hsink, hrsp⟩ := hu.faults hrun (exec_of_raises hu.run hraises) (isFaultEntry_raise kind u)
    (body_or_end_of_split hbody hsplit)
  have hscript : .dec :: (body ++ [.end_]) = .dec :: before ++ i :: after := congrArg (Instr.dec :: ·) hsplit
  have hincnt : u.eng.incnt = BitVec.ofNat 64 (items before).length := hu.incnt
  rw [items_of_split hsplit] at hgroups ⊢
  obtain rfl := hgroups.trans (unpaddedGroups_eq (items before) _).symm
  refine ⟨w, bursts, .dec :: before, after, i, ?_, ?_, ?_, ?_, ?_, ?_, hscript, rfl, hi, hrsp, hsink, hu.full, ?_⟩
  · rw [runSteps_session rfl hbody hin, hscript, hall]
  · rw [heng]
    rfl
  · rw [heng, ← hu.dir]
    rfl
  · rw [heng]
    rfl
  · rw [heng, ← hincnt]
    rfl
  · rw [heng, ← hincnt]
    rfl
  · exact hu.flatten_eq_decValue_take _

/-- Settles O60: the first session puts out the encoding, which `dec` accepts with the bytes as its value. -/
theorem encodeThenDecodeGivesTheBytesBack : Obligations.EncodeThenDecodeGivesTheBytesBack := by
  intro s₁ s₂ t₁ bytes text hinv₁ hinv₂ hs₁ hs₂ halphabet hin₁ hok₁ hreplies₁ hrun₁ htext hin₂ hok₂ hreplies₂
  have hlen (l : List Byte) : (puts l).length = l.length := List.length_map _
  obtain ⟨u₁, bursts₁, hu₁, -, -, -, -, -, -, hsink₁, hcut₁, -⟩ := encodeSessionPutsOutTheEncoding s₁ (puts bytes) hinv₁ hs₁
    (isBody_puts bytes) hin₁ hok₁ (by rwa [hlen])
  rw [hlen, hrun₁] at hu₁
  obtain rfl := Host.Outcome.next.inj hu₁
  obtain rfl : text = enc s₂.cfg bytes := by
    rw [hsink₁, List.flatten_append, hcut₁, items_puts] at htext
    exact (List.append_cancel_left htext).symm.trans (enc_congr halphabet bytes)
  obtain ⟨u₂, bursts₂, hu₂, hdone, -, -, -, -, -, hsink₂, hcut₂, -⟩ := decodeSessionOfWellFormedText s₂
    (puts (enc s₂.cfg bytes)) bytes hinv₂ hs₂ (isBody_puts _) hin₂ hok₂ (by rwa [hlen])
    (by rw [items_puts, dec_enc hinv₂.cfg])
  rw [hlen] at hu₂
  exact ⟨u₂, hu₂, hdone, by rw [hsink₂, List.flatten_append, hcut₂]⟩

end Sys2Proof.Proofs
end
